-- ==== Sys2Proof/Word.lean ====
section
/-! DEFINITION. The word types of the block: the byte, the 48-bit host request word and the frame. -/

namespace Sys2Proof

/-- One byte: a digit register, a wire command or a segment bitmap (20_memory.md R59). -/
abbrev Byte := BitVec 8

/-- One host request word REQ[47:0] (30_encoding.md R70). -/
abbrev ReqWord := BitVec 48

/-- The bytes of one strobe bracket, in the order they are sent (00_scope.md R12, R14). -/
abbrev Frame := List Byte

end Sys2Proof
end

