-- ==== Sys2Proof/Syntax.lean ====
section
/-! DEFINITION. The instructions: one constructor for each row of spec/opcode_table.json, and the two formats their codes have. -/

namespace Sys2Proof

/-- spinMode's three legal values (10_state.md R28). The fourth 2-bit code is no register value. -/
inductive SpinMode where
  | none
  | singleDigit
  | fullDisplay
  deriving DecidableEq, Repr

/-- The opcode table. The first thirteen are the host requests (30_encoding.md R71, R73); the last four are
the wire command kinds the block emits (R81). -/
inductive Instr where
  /-- RESET (40_wire.md R119). -/
  | reset
  /-- ENABLE (41_setters.md R148). -/
  | enable
  /-- DISABLE (R149). -/
  | disable
  /-- SETBRT a, A = value (R147). -/
  | setBrt (value : Byte)
  /-- SETCOL f, F = state (R145). -/
  | setCol (state : Bool)
  /-- TGLCOL (R146). -/
  | tglCol
  /-- SETDIG i, v, f: A = index, B = value, F = triggerRedraw (R142). -/
  | setDig (index : Byte) (value : BitVec 32) (triggerRedraw : Bool)
  /-- SETSEG i, m: A = index, B[7:0] = bitmap (R141). -/
  | setSeg (index : Byte) (bitmap : Byte)
  /-- SETVAL v, f: B = value, F = showLeadingZeros (R144). -/
  | setVal (value : BitVec 32) (showLeadingZeros : Bool)
  /-- SETSPIN mode: A = mode (42_animation.md R181). -/
  | setSpin (mode : SpinMode)
  /-- SPIN (R182, R183, R184). -/
  | spin
  /-- REDRAW (40_wire.md R120). -/
  | redraw
  /-- GETBITS v: B = value (41_setters.md R140). -/
  | getBits (value : BitVec 32)
  /-- LAYOUT_SELECT, the layout code in bits 1..0 (30_encoding.md R81, 40_wire.md R112). -/
  | layoutSelect (code : BitVec 2)
  /-- DATA_SET (R81, R113). -/
  | dataSet
  /-- DISPLAY_CTRL, on in bit 3 and brightness in bits 2..0 (R81, R114). -/
  | displayCtrl (on : Bool) (brightness : BitVec 3)
  /-- ADDR, the slot in bits 3..0 (R81, R116). -/
  | addr (slot : BitVec 4)
  deriving DecidableEq, Repr

/-- Whether an instruction is one of the thirteen host requests, the ones a host can present (R73). -/
def Instr.isRequest : Instr → Bool
  | .reset => true
  | .enable => true
  | .disable => true
  | .setBrt _ => true
  | .setCol _ => true
  | .tglCol => true
  | .setDig _ _ _ => true
  | .setSeg _ _ => true
  | .setVal _ _ => true
  | .setSpin _ => true
  | .spin => true
  | .redraw => true
  | .getBits _ => true
  | .layoutSelect _ => false
  | .dataSet => false
  | .displayCtrl _ _ => false
  | .addr _ => false

/-- An encoded instruction, in one of the table's two formats: host_req48 or wire_cmd8. -/
inductive Code where
  /-- A host request word (30_encoding.md R70). -/
  | request (w : ReqWord)
  /-- A wire command byte (R81). -/
  | wire (b : Byte)
  deriving DecidableEq, Repr

end Sys2Proof
end

