-- ==== Sys2Proof/Decode.lean ====
section
/-! DEFINITION. Decoding, total on every code and rejecting by name (30_encoding.md R70 to R75, 60_exceptions.md R201), and after it the encoder (R70, R71, R76, R81). -/

namespace Sys2Proof

/-- Why a request word is illegal, codes 1 to 4 of 60_exceptions.md R201. -/
inductive IllegalReason where
  /-- Code 1: OP is 0xD, 0xE or 0xF. -/
  | reservedOp
  /-- Code 2: REQ[42:40] is not 0. -/
  | rsvNonzero
  /-- Code 3: a field R71 marks "0" for this OP is nonzero. -/
  | unusedField
  /-- Code 4: SETSPIN with A ≥ 3. -/
  | badSpinMode
  deriving DecidableEq, Repr

/-- What a code decodes to. -/
inductive Decoded where
  /-- An instruction. -/
  | instr (i : Instr)
  /-- An illegal request word, with the first failing check (R75). -/
  | illegal (r : IllegalReason)
  /-- A byte that is no wire command of R81. -/
  | unknownWire (b : Byte)
  deriving DecidableEq, Repr

/-- OP = REQ[47:44] (R70). -/
def opField (w : ReqWord) : BitVec 4 := w.extractLsb' 44 4

/-- F = REQ[43] (R70). -/
def fField (w : ReqWord) : Bool := w.getLsbD 43

/-- RSV = REQ[42:40] (R70). -/
def rsvField (w : ReqWord) : BitVec 3 := w.extractLsb' 40 3

/-- A = REQ[39:32] (R70). -/
def aField (w : ReqWord) : Byte := w.extractLsb' 32 8

/-- B = REQ[31:0] (R70). -/
def bField (w : ReqWord) : BitVec 32 := w.extractLsb' 0 32

/-- The opcodes that use F: SETCOL, SETDIG and SETVAL (R71). -/
def usesF (op : Nat) : Bool := op == 0x4 || op == 0x6 || op == 0x8

/-- The opcodes that use A: SETBRT, SETDIG, SETSEG and SETSPIN (R71). -/
def usesA (op : Nat) : Bool := op == 0x3 || op == 0x6 || op == 0x7 || op == 0x9

/-- The bits of B an opcode uses: all for SETDIG, SETVAL and GETBITS, the low byte for SETSEG (R71). -/
def usedB (op : Nat) : BitVec 32 :=
  if op == 0x6 || op == 0x8 || op == 0xC then 0xFFFFFFFF else if op == 0x7 then 0xFF else 0

/-- Check (3) of R75: some "0" field of R71 is nonzero. -/
def hasUnusedField (op : Nat) (f : Bool) (a : Byte) (b : BitVec 32) : Bool :=
  (f && !usesF op) || (a != 0 && !usesA op) || (b &&& ~~~ usedB op != 0)

/-- The spin mode a SETSPIN operand names; none for 3..255 (R71, check (4) of R75). -/
def spinModeOf (a : Byte) : Option SpinMode :=
  match a.toNat with
  | 0 => some .none
  | 1 => some .singleDigit
  | 2 => some .fullDisplay
  | _ => none

/-- The spin mode's code (10_state.md R28). -/
def spinModeCode : SpinMode → Byte
  | .none => 0
  | .singleDigit => 1
  | .fullDisplay => 2

/-- The request an opcode and its operands name, after checks (1) to (3) (R71, R73). -/
def requestOf (op : Nat) (f : Bool) (a : Byte) (b : BitVec 32) : Decoded :=
  match op with
  | 0x0 => .instr .reset
  | 0x1 => .instr .enable
  | 0x2 => .instr .disable
  | 0x3 => .instr (.setBrt a)
  | 0x4 => .instr (.setCol f)
  | 0x5 => .instr .tglCol
  | 0x6 => .instr (.setDig a b f)
  | 0x7 => .instr (.setSeg a (b.setWidth 8))
  | 0x8 => .instr (.setVal b f)
  | 0x9 =>
    match spinModeOf a with
    | some m => .instr (.setSpin m)
    | none => .illegal .badSpinMode
  | 0xA => .instr .spin
  | 0xB => .instr .redraw
  | 0xC => .instr (.getBits b)
  | _ => .illegal .reservedOp

/-- Decoding of a host request word, the four checks in R75's order. -/
def decodeRequest (w : ReqWord) : Decoded :=
  let op := (opField w).toNat
  if 0xC < op then .illegal .reservedOp
  else if rsvField w ≠ 0 then .illegal .rsvNonzero
  else if hasUnusedField op (fField w) (aField w) (bField w) then .illegal .unusedField
  else requestOf op (fField w) (aField w) (bField w)

/-- Decoding of a wire command byte by the four rows of R81 (the table's match and mask). -/
def decodeWire (b : Byte) : Decoded :=
  if b.extractLsb' 2 6 = 0 then .instr (.layoutSelect (b.extractLsb' 0 2))
  else if b = 0x40 then .instr .dataSet
  else if b.extractLsb' 4 4 = 0x8 then .instr (.displayCtrl (b.getLsbD 3) (b.extractLsb' 0 3))
  else if b.extractLsb' 4 4 = 0xC then .instr (.addr (b.extractLsb' 0 4))
  else .unknownWire b

/-- Decoding of a code, by its format. No mode or state changes it (R79). -/
def decode : Code → Decoded
  | .request w => decodeRequest w
  | .wire b => decodeWire b

/-- REQ from its fields, with RSV = 0: the concatenation R70 draws. -/
def requestWord (op : BitVec 4) (f : Bool) (a : Byte) (b : BitVec 32) : ReqWord :=
  op ++ BitVec.ofBool f ++ 0#3 ++ a ++ b

/-- The code of an instruction: R76 for the requests, R81 for the wire commands. -/
def encode : Instr → Code
  | .reset => .request (requestWord 0x0 false 0 0)
  | .enable => .request (requestWord 0x1 false 0 0)
  | .disable => .request (requestWord 0x2 false 0 0)
  | .setBrt a => .request (requestWord 0x3 false a 0)
  | .setCol f => .request (requestWord 0x4 f 0 0)
  | .tglCol => .request (requestWord 0x5 false 0 0)
  | .setDig i v f => .request (requestWord 0x6 f i v)
  | .setSeg i m => .request (requestWord 0x7 false i (m.setWidth 32))
  | .setVal v f => .request (requestWord 0x8 f 0 v)
  | .setSpin m => .request (requestWord 0x9 false (spinModeCode m) 0)
  | .spin => .request (requestWord 0xA false 0 0)
  | .redraw => .request (requestWord 0xB false 0 0)
  | .getBits v => .request (requestWord 0xC false 0 v)
  | .layoutSelect code => .wire (0#6 ++ code)
  | .dataSet => .wire 0x40
  | .displayCtrl on b => .wire (0x8#4 ++ BitVec.ofBool on ++ b)
  | .addr sl => .wire (0xC#4 ++ sl)

/-- The code in which a row of the opcode table of nbits bits has the bits w: a wire command byte for the
8-bit rows, a host request word for the others. Neither format has a byte order (20_memory.md R57). -/
def codeOfTable (nbits w : Nat) : Code :=
  if nbits ≤ 8 then .wire (BitVec.ofNat 8 w) else .request (BitVec.ofNat 48 w)

/-- The instruction the decoder reads from a table row's bits. -/
def decodeTableWord (nbits w : Nat) : Option Instr :=
  match decode (codeOfTable nbits w) with
  | .instr i => some i
  | .illegal _ => none
  | .unknownWire _ => none

end Sys2Proof
end

