-- ==== Sys2Proof/Config.lean ====
section
/-! DEFINITION. The implementation parameters of 00_scope.md R7: the constants with one legal value, the record of the others, which parameter sets are legal, and the one free value of the model. -/

namespace Sys2Proof

/-- The layout selector, one bit: 0 is LAYOUT_6x12 and 1 is LAYOUT_7x11 (00_scope.md R7, 10_state.md R30). -/
inductive Layout where
  | layout6x12
  | layout7x11
  deriving DecidableEq, Repr

/-- BUFFER_CAPACITY, the digit cap (R7). -/
def bufferCapacity : Nat := 4

/-- SINGLE_SPIN_STEPS (R7, 42_animation.md R180). -/
def singleSpinSteps : Nat := 6

/-- FULL_SPIN_STEPS (R7, R180). -/
def fullSpinSteps : Nat := 12

/-- FULL_SPIN_DIGITS (R7, R184): the full spinner issues four writes at every step. -/
def fullSpinDigits : Nat := 4

/-- VALUE_WIDTH, the width of SETVAL's operand (R7, D20). -/
def valueWidth : Nat := 32

/-- The configuration of one block instance (R7), fixed for its life.
It stands in State (10_state.md R20(1)), so a statement about every state holds for every parameter set.
The table sizes are those of R8. -/
structure Config where
  /-- N, the digit count, legal 1..4. -/
  n : Nat
  /-- LAYOUT. -/
  layout : Layout
  /-- BRIGHTNESS_DEFAULT. -/
  brightnessDefault : BitVec 3
  /-- POWER_ON_INITIAL. -/
  powerOnInitial : Bool
  /-- FONT, 16 entries. -/
  font : Vector Byte 16
  /-- SPIN_TABLE, 48 entries, frame-major (30_encoding.md R86). -/
  spinTable : Vector Byte 48
  /-- COLON_MASK. -/
  colonMask : Byte
  /-- CMD_LAYOUT_BASE. -/
  cmdLayoutBase : Byte
  /-- LAYOUT_BITS_6x12. -/
  layoutBits6x12 : Byte
  /-- LAYOUT_BITS_7x11. -/
  layoutBits7x11 : Byte
  /-- CMD_DATA_SET_BASE. -/
  cmdDataSetBase : Byte
  /-- DATA_WRITE_BIT. -/
  dataWriteBit : Byte
  /-- DATA_AUTOINC_BIT. -/
  dataAutoincBit : Byte
  /-- DATA_NORMAL_BIT. -/
  dataNormalBit : Byte
  /-- CMD_DISPLAY_CTRL_BASE. -/
  cmdDisplayCtrlBase : Byte
  /-- DISPLAY_ON_BIT. -/
  displayOnBit : Byte
  /-- CMD_ADDR_BASE. -/
  cmdAddrBase : Byte
  /-- DIGIT_ADDR_BASE. -/
  digitAddrBase : Byte
  deriving DecidableEq, Repr

/-- N is legal when it is 1, 2, 3 or 4 (60_exceptions.md R200). -/
abbrev Config.DigitCountLegal (c : Config) : Prop := 1 ≤ c.n ∧ c.n ≤ bufferCapacity

/-- The legality R7 asks of the other parameters: the two font entries the source gives, and
DIGIT_ADDR_BASE + 6 ≤ 0x0F (R7, D10). -/
abbrev Config.ParametersLegal (c : Config) : Prop :=
  c.font[0] = 0x3F ∧ c.font[15] = 0x71 ∧ c.digitAddrBase.toNat + 6 ≤ 0x0F

/-- A legal parameter set. -/
abbrev Config.Legal (c : Config) : Prop := c.DigitCountLegal ∧ c.ParametersLegal

/-- FREE VALUE: what SPIN_TABLE holds at an index outside its 48 entries (42_animation.md R184 gives
0 ≤ p < 12). No request leads to a state that reads it. DESIGN CHOICE, safe: notes/assumptions/10.md. -/
opaque Config.freeSpinByte : Nat → Byte

end Sys2Proof
end

