-- ==== Sys2Proof/Machine/Encoder.lean ====
section
/-! DEFINITION. The Protocol Encoder: the four command-byte builders of 40_wire.md R112 to R116, and which command bytes the block has a path to produce (30_encoding.md R81, R82). -/

namespace Sys2Proof.Machine

/-- The layout bits a layout is sent with (40_wire.md R112). -/
def layoutBits (c : Config) : Layout → Byte
  | .layout6x12 => c.layoutBits6x12
  | .layout7x11 => c.layoutBits7x11

/-- LayoutCmd() (R112). -/
def layoutCmd (c : Config) : Byte :=
  c.cmdLayoutBase ||| layoutBits c c.layout

/-- DataSetCmd() (R113). -/
def dataSetCmd (c : Config) : Byte :=
  c.cmdDataSetBase ||| c.dataWriteBit ||| c.dataAutoincBit ||| c.dataNormalBit

/-- DisplayCtrlCmd(on, b) (R114). The operand has three bits, so `b & 0x7` is its zero extension. -/
def displayCtrlCmd (c : Config) (on : Bool) (b : BitVec 3) : Byte :=
  c.cmdDisplayCtrlBase ||| (if on then c.displayOnBit else 0x00) ||| b.setWidth 8

/-- slot(i) = DIGIT_ADDR_BASE + 2×i (20_memory.md R54). -/
def slot (c : Config) (i : Nat) : Byte :=
  c.digitAddrBase + BitVec.ofNat 8 (2 * i)

/-- AddrCmd(i) (40_wire.md R116). -/
def addrCmd (c : Config) (i : Nat) : Byte :=
  c.cmdAddrBase ||| slot c i

/-- The byte a LAYOUT_SELECT with this code is (30_encoding.md R81). -/
def layoutByte (c : Config) (code : BitVec 2) : Byte :=
  c.cmdLayoutBase ||| code.setWidth 8

/-- The byte an ADDR with this slot is (R81). -/
def addrByte (c : Config) (sl : BitVec 4) : Byte :=
  c.cmdAddrBase ||| sl.setWidth 8

/-- The block sends the layout code of its own LAYOUT and no other (40_wire.md R112, 30_encoding.md R82). -/
def sendsLayout (c : Config) (code : BitVec 2) : Bool :=
  layoutByte c code == layoutCmd c

/-- The block sends the address bytes of its N digits and no other (20_memory.md R54, 30_encoding.md R82). -/
def sendsAddr (c : Config) (sl : BitVec 4) : Bool :=
  (List.range c.n).any fun i => addrByte c sl == addrCmd c i

end Sys2Proof.Machine
end

