-- ==== Sys2Proof/Machine/Reference.lean ====
section
/-! DEFINITION. The reference parameter set: the defaults of 00_scope.md R7, the font of 30_encoding.md R83 and the placeholder spin table of R85. -/

namespace Sys2Proof.Machine

/-- The reference FONT (30_encoding.md R83). Entries 0x1 to 0xE are the spec's decision D12:
notes/assumptions/4.md. -/
def referenceFont : Vector Byte 16 :=
  #v[0x3F, 0x06, 0x5B, 0x4F, 0x66, 0x6D, 0x7D, 0x07, 0x7F, 0x6F, 0x77, 0x7C, 0x39, 0x5E, 0x79, 0x71]

/-- R85's last column: for each frame its digit and the bit of its lit stroke, with a = 0 to f = 5 (R80).
A clockwise walk: the top strokes, down the right side, the bottom strokes back, up the left side. -/
def perimeterWalk : List (Nat × Nat) :=
  [(0, 0), (1, 0), (2, 0), (3, 0), (3, 1), (3, 2), (3, 3), (2, 3), (1, 3), (0, 3), (0, 4), (0, 5)]

/-- The four bytes of a frame that lights one stroke of one digit. -/
def oneStrokeFrame (digit stroke : Nat) : Frame :=
  (List.range fullSpinDigits).map fun j => if j = digit then 1 <<< stroke else 0

/-- The reference SPIN_TABLE (R85), frame by frame (R86). OPEN parameter, D13: notes/assumptions/5.md. -/
def referenceSpinTable : Vector Byte 48 :=
  ⟨(perimeterWalk.flatMap fun lit => oneStrokeFrame lit.1 lit.2).toArray, by decide⟩

/-- The reference configuration (R7). LAYOUT has no default in R7: DESIGN CHOICE LAYOUT_7x11, the layout of
95_test_vectors.md, unsafe (notes/assumptions/1.md). The other values: notes/assumptions/2.md and 6.md. -/
def referenceConfig : Config where
  n := 4
  layout := .layout7x11
  brightnessDefault := 7
  powerOnInitial := true
  font := referenceFont
  spinTable := referenceSpinTable
  colonMask := 0x80
  cmdLayoutBase := 0x00
  layoutBits6x12 := 0x02
  layoutBits7x11 := 0x03
  cmdDataSetBase := 0x40
  dataWriteBit := 0x00
  dataAutoincBit := 0x00
  dataNormalBit := 0x00
  cmdDisplayCtrlBase := 0x80
  displayOnBit := 0x08
  cmdAddrBase := 0xC0
  digitAddrBase := 0x00

end Sys2Proof.Machine
end

