-- ==== Sys2Proof/Machine/State.lean ====
section
/-! DEFINITION. The machine's state as plain data, its fault and refusal reasons, and its state after construction. -/

namespace Sys2Proof.Machine

/-- Why the machine stops with a fault. -/
inductive Fault where
  /-- ConfigError, code CFG, with the offending N (60_exceptions.md R200). Raised by `construct`, never by a
  step: no machine exists afterwards. Safe: the spec refuses the construction. -/
  | configError (n : Nat)
  deriving DecidableEq, Repr

/-- Why the machine gives no meaning. -/
inductive Refusal where
  /-- An instruction without a meaning yet, by its mnemonic. Raised by a rejected arm of `exec`. Safe. -/
  | notModelled (mnemonic : String)
  /-- A wire command byte the block has no path to produce (30_encoding.md R82, 40_wire.md R121). Raised by
  LAYOUT_SELECT and ADDR, and by the fetch of a byte that is no wire command. Safe: the block never sends it. -/
  | neverEmitted (b : Byte)
  /-- A parameter set that 00_scope.md R7 calls not legal for another reason than N. Raised by `construct`.
  Safe: the spec gives such a block no behaviour. -/
  | illegalParameters
  deriving DecidableEq, Repr

/-- The three output lines (10_state.md R35). -/
structure Lines where
  /-- STB, strobe. -/
  stb : Bool
  /-- CLK, clock. -/
  clk : Bool
  /-- DIO, data. -/
  dio : Bool
  deriving DecidableEq, Repr

/-- A response RESP = {ERR, DATA} (30_encoding.md R78). -/
structure Response where
  /-- ERR. -/
  err : Bool
  /-- DATA. -/
  data : Byte
  deriving DecidableEq, Repr

/-- The block's state (10_state.md R20), with the host's input and the transcript of its responses. -/
structure State where
  /-- Part (1), configuration: N, LAYOUT, the tables and the constants. No request writes it (R30, R34). -/
  cfg : Config
  /-- D[0..N-1], index 0 leftmost (R21, R22). -/
  digits : List Byte
  /-- colonEnabled (R25). -/
  colonEnabled : Bool
  /-- powerOn (R26). -/
  powerOn : Bool
  /-- brightness (R27). -/
  brightness : BitVec 3
  /-- spinMode (R28). -/
  spinMode : SpinMode
  /-- spinPosition (R29). -/
  spinPosition : BitVec 4
  /-- STB, CLK and DIO (R35). -/
  lines : Lines
  /-- W, every frame emitted since construction, in order (R36). -/
  wire : List Frame
  /-- The model's own: the responses delivered so far, in order (30_encoding.md R78; notes/assumptions/9.md). -/
  responses : List Response
  /-- The model's own: what is presented to the block next, the host's request sequence
  (10_state.md R24; notes/assumptions/7.md and 8.md). -/
  pending : List Code
  deriving DecidableEq, Repr

/-- The state after construction with configuration c (10_state.md R33, 70_reset_and_hazards.md R230, R231):
the baseline of R32, powerOn = POWER_ON_INITIAL, idle lines, empty W. -/
def State.powerUp (c : Config) : State where
  cfg := c
  digits := List.replicate c.n 0x00
  colonEnabled := false
  powerOn := c.powerOnInitial
  brightness := c.brightnessDefault
  spinMode := .none
  spinPosition := 0
  lines := { stb := true, clk := false, dio := false }
  wire := []
  responses := []
  pending := []

/-- The machine right after construction (hardware power-on), under the reference configuration. -/
def State.reset : State := State.powerUp referenceConfig

end Sys2Proof.Machine
end

