-- ==== Sys2Proof/Machine/Flags.lean ====
section
/-! DEFINITION. The two flags of the block, colonEnabled and powerOn (10_state.md R25, R26). The block has no condition codes (41_setters.md R150). -/

namespace Sys2Proof.Machine

/-- ColonOverlay(i) (40_wire.md R118): the mask on positions 0 and 1 while the colon is enabled. -/
def colonOverlay (c : Config) (colon : Bool) (i : Nat) : Byte :=
  if colon && decide (i < 2) then c.colonMask else 0x00

/-- SETCOL's change test, F ≠ colonEnabled (41_setters.md R145). -/
def colonChanges (f : Bool) (s : State) : Bool := f != s.colonEnabled

/-- colonEnabled <- f. -/
def setColonFlag (f : Bool) (s : State) : State := { s with colonEnabled := f }

/-- powerOn <- on. -/
def setPowerFlag (on : Bool) (s : State) : State := { s with powerOn := on }

end Sys2Proof.Machine
end

