-- ==== Sys2Proof/Machine/Operands.lean ====
section
/-! DEFINITION. What the requests make of their operands: masks, the font lookup, decimal digits, the spinner's bitmaps and its step (30_encoding.md R72, R84, 41_setters.md R143, 42_animation.md R183, R184). Every value is unsigned and exact (41_setters.md R150). -/

namespace Sys2Proof.Machine

/-- SETBRT's operand, A & 0x7 (R72). -/
def brightnessOf (a : Byte) : BitVec 3 := (a &&& 0x7).setWidth 3

/-- Font4(v) = FONT[v & 0xF] for any unsigned v (30_encoding.md R84). -/
def font4 (c : Config) (v : Nat) : Byte :=
  c.font[v &&& 0xF]'(Nat.and_lt_two_pow (n := 4) v (by decide))

/-- DecDigit(v, k) = (v / 10^k) mod 10 (41_setters.md R143). -/
def decDigit (v k : Nat) : Nat := v / 10 ^ k % 10

/-- SingleDigit's bitmap, 1 << p (42_animation.md R183). -/
def spinBit (p : BitVec 4) : Byte := 1 <<< p.toNat

/-- SPIN_TABLE[4×p + j] (30_encoding.md R86); a free value outside the table (notes/assumptions/10.md). -/
def spinByte (c : Config) (p j : Nat) : Byte :=
  if h : 4 * p + j < 48 then c.spinTable[4 * p + j] else Config.freeSpinByte (4 * p + j)

/-- (p + 1) mod steps, as a 4-bit register value (R183, R184). -/
def nextPosition (steps : Nat) (p : BitVec 4) : BitVec 4 := BitVec.ofNat 4 ((p.toNat + 1) % steps)

end Sys2Proof.Machine
end

