-- ==== Sys2Proof/Machine/Ops.lean ====
section
/-! DEFINITION. The operations every request is made of: the digit buffer's accesses, the frame transmitter with its bit-level wire form, Redraw and UpdateDisplayState, the response, the illegal request, the fetch of the next request and construction. -/

namespace Sys2Proof.Machine

/-- MemRead(i, 1) = D[i]; none where there is no register i (20_memory.md R53). -/
def memRead (s : State) (i : Nat) : Option Byte := s.digits[i]?

/-- MemWrite(i, 1, v), the bounded write: no effect when i ≥ N (20_memory.md R52). -/
def memWrite (s : State) (i : Nat) (v : Byte) : State :=
  { s with digits := if i < s.cfg.n then s.digits.set i v else s.digits }

/-- MemWrite(i, 1, 0x00) for i in 0..N-1 (40_wire.md R119). -/
def clearDigits (s : State) : State :=
  (List.range s.cfg.n).foldl (fun t i => memWrite t i 0x00) s

/-- One assignment to an output line, the unit of 40_wire.md R111. -/
inductive LineEvent where
  | stb (level : Bool)
  | clk (level : Bool)
  | dio (level : Bool)
  deriving DecidableEq, Repr

/-- The lines after one assignment. -/
def driveLine (l : Lines) : LineEvent → Lines
  | .stb v => { l with stb := v }
  | .clk v => { l with clk := v }
  | .dio v => { l with dio := v }

/-- One byte on the wire, bit 0 first: DIO <- b[k], CLK <- 1, CLK <- 0 (R111, 20_memory.md R56). -/
def byteEvents (b : Byte) : List LineEvent :=
  (List.range 8).flatMap fun k => [.dio (b.getLsbD k), .clk true, .clk false]

/-- The line assignments of one frame: one strobe bracket around its bytes (R111). -/
def frameEvents (f : Frame) : List LineEvent :=
  .stb false :: (f.flatMap byteEvents ++ [.stb true])

/-- The lines after a frame. -/
def driveFrame (l : Lines) (f : Frame) : Lines := (frameEvents f).foldl driveLine l

/-- Emit(frame): appends the frame to W and drives it on the lines (40_wire.md R110, R111). -/
def emit (s : State) (f : Frame) : State :=
  { s with wire := s.wire ++ [f], lines := driveFrame s.lines f }

/-- The whole line history since construction. It is a view of W and is not stored again. -/
def lineTrace (s : State) : List LineEvent := s.wire.flatMap frameEvents

/-- UpdateDisplayState() (R115). -/
def updateDisplayState (s : State) : State :=
  emit s [displayCtrlCmd s.cfg s.powerOn s.brightness]

/-- The address and data bytes of the digits `ds`, the first of which is digit i (R117). -/
def redrawBytes (c : Config) (colon : Bool) : Nat → List Byte → Frame
  | _, [] => []
  | i, d :: ds => addrCmd c i :: (d ||| colonOverlay c colon i) :: redrawBytes c colon (i + 1) ds

/-- The redraw frame: digit 0 first, all N digits, which are all of D (R117, 10_state.md R22). -/
def redrawFrame (s : State) : Frame := redrawBytes s.cfg s.colonEnabled 0 s.digits

/-- Redraw() (R117). -/
def redraw (s : State) : State := emit s (redrawFrame s)

/-- Respond(err, data) (00_scope.md R12, 30_encoding.md R78). -/
def respond (s : State) (err : Bool) (data : Byte) : State :=
  { s with responses := s.responses ++ [{ err := err, data := data }] }

/-- The end of a request whose rule states no other response: Respond(0, 0x00). -/
def answerOk (s : State) : Host.Outcome State Fault Refusal := .next (respond s false 0x00)

/-- IllegalRequest (60_exceptions.md R201, R208): no state written, no frame, Respond(1, 0x00). The reason is
not visible in the response. -/
def illegalRequest (_reason : IllegalReason) (s : State) : State := respond s true 0x00

/-- s with another list of codes presented. -/
def State.withPending (s : State) (p : List Code) : State := { s with pending := p }

/-- What the block finds when it looks for its next request. -/
inductive Fetched where
  /-- Nothing is presented. -/
  | idle
  /-- An instruction, with the state after it is taken from the host. -/
  | run (i : Instr) (s : State)
  /-- An illegal request word. -/
  | illegal (r : IllegalReason) (s : State)
  /-- A byte that is no wire command. -/
  | unknownWire (b : Byte)
  deriving DecidableEq, Repr

/-- Takes the first presented code and decodes it (20_memory.md R62, 70_reset_and_hazards.md R240). -/
def fetch (s : State) : Fetched :=
  match s.pending with
  | [] => .idle
  | code :: rest =>
    match decode code with
    | .instr i => .run i (s.withPending rest)
    | .illegal r => .illegal r (s.withPending rest)
    | .unknownWire b => .unknownWire b

/-- Presents a code to the block as the very next one. -/
def present (s : State) (code : Code) : State := s.withPending (code :: s.pending)

/-- Construction (60_exceptions.md R200, 70_reset_and_hazards.md R230): ConfigError for an illegal N, a
refusal for another illegal parameter (00_scope.md R7), otherwise the power-on state. -/
def construct (c : Config) : Host.Outcome State Fault Refusal :=
  if ¬ c.DigitCountLegal then .fault (.configError c.n)
  else if ¬ c.ParametersLegal then .refused .illegalParameters
  else .next (State.powerUp c)

/-- The next state of an outcome, if it is one. -/
def nextState? : Host.Outcome State Fault Refusal → Option State
  | .next s => some s
  | .fault _ => none
  | .refused _ => none

end Sys2Proof.Machine
end

