-- ==== Sys2Proof/Machine/Animation.lean ====
section
/-! DEFINITION. The meanings of 42_animation.md: SETSPIN and SPIN. -/

namespace Sys2Proof.Machine

/-- SETSPIN (42_animation.md R181): the mode is written and the position is always reset. -/
def execSetSpin (mode : SpinMode) (s : State) : Host.Outcome State Fault Refusal :=
  answerOk { s with spinMode := mode, spinPosition := 0 }

/-- SPIN in mode SingleDigit (R183): write the bitmap of the position, then advance, then redraw. -/
def spinSingle (s : State) : State :=
  let p := s.spinPosition
  let s := memWrite s 0 (spinBit p)
  redraw { s with spinPosition := nextPosition singleSpinSteps p }

/-- The four bounded writes of one full-display step (R184); those at j ≥ N are dropped (R185). -/
def writeSpinFrame (p : Nat) (s : State) : State :=
  (List.range fullSpinDigits).foldl (fun t j => memWrite t j (spinByte t.cfg p j)) s

/-- SPIN in mode FullDisplay (R184). -/
def spinFull (s : State) : State :=
  let p := s.spinPosition
  let s := writeSpinFrame p.toNat s
  redraw { s with spinPosition := nextPosition fullSpinSteps p }

/-- SPIN (R182, R183, R184), by spinMode. -/
def execSpin (s : State) : Host.Outcome State Fault Refusal :=
  match s.spinMode with
  | .none => answerOk s
  | .singleDigit => answerOk (spinSingle s)
  | .fullDisplay => answerOk (spinFull s)

end Sys2Proof.Machine
end

