-- ==== Sys2Proof/Machine/Setters.lean ====
section
/-! DEFINITION. The meanings of 41_setters.md: font lookup, digit and value setters, colon, brightness and power. -/

namespace Sys2Proof.Machine

/-- GETBITS (41_setters.md R140). -/
def execGetBits (value : BitVec 32) (s : State) : Host.Outcome State Fault Refusal :=
  .next (respond s false (font4 s.cfg value.toNat))

/-- SETSEG (R141). -/
def execSetSeg (index : Byte) (bitmap : Byte) (s : State) : Host.Outcome State Fault Refusal :=
  answerOk (memWrite s index.toNat bitmap)

/-- SETDIG (R142): the redraw depends on F alone (D21). -/
def execSetDig (index : Byte) (value : BitVec 32) (triggerRedraw : Bool) (s : State) :
    Host.Outcome State Fault Refusal :=
  let s := memWrite s index.toNat (font4 s.cfg value.toNat)
  answerOk (if triggerRedraw then redraw s else s)

/-- SETVAL's loop (R144) over the last k digits, from digit N-k on: the place of digit N-1-k is k.
`seen` says that a nonzero digit has been written. -/
def writeValue (v : Nat) (showLeadingZeros : Bool) : Nat → Bool → State → State
  | 0, _, s => s
  | k + 1, seen, s =>
    let d := decDigit v k
    let i := s.cfg.n - 1 - k
    if d = 0 ∧ showLeadingZeros = false ∧ seen = false ∧ i < s.cfg.n - 1 then
      writeValue v showLeadingZeros k seen (memWrite s i 0x00)
    else
      writeValue v showLeadingZeros k (seen || d != 0) (memWrite s i (font4 s.cfg d))

/-- SETVAL (R144). -/
def execSetVal (value : BitVec 32) (showLeadingZeros : Bool) (s : State) : Host.Outcome State Fault Refusal :=
  answerOk (redraw (writeValue value.toNat showLeadingZeros s.cfg.n false s))

/-- The body of SETCOL (R145), which TGLCOL shares (R146): on a change, write and redraw. -/
def changeColon (f : Bool) (s : State) : State :=
  if colonChanges f s then redraw (setColonFlag f s) else s

/-- SETCOL (R145). -/
def execSetCol (state : Bool) (s : State) : Host.Outcome State Fault Refusal := answerOk (changeColon state s)

/-- TGLCOL (R146): SETCOL's body with F = !colonEnabled. -/
def execTglCol (s : State) : Host.Outcome State Fault Refusal := answerOk (changeColon (!s.colonEnabled) s)

/-- SETBRT (R147). -/
def execSetBrt (value : Byte) (s : State) : Host.Outcome State Fault Refusal :=
  answerOk (updateDisplayState { s with brightness := brightnessOf value })

/-- ENABLE (R148). -/
def execEnable (s : State) : Host.Outcome State Fault Refusal := answerOk (updateDisplayState (setPowerFlag true s))

/-- DISABLE (R149). -/
def execDisable (s : State) : Host.Outcome State Fault Refusal := answerOk (updateDisplayState (setPowerFlag false s))

end Sys2Proof.Machine
end

