-- ==== Sys2Proof/Machine/Wire.lean ====
section
/-! DEFINITION. The meanings of 40_wire.md: RESET and REDRAW, and the four wire command kinds as the block sends them. -/

namespace Sys2Proof.Machine

/-- The reset baseline (10_state.md R32). powerOn is not written. -/
def baseline (s : State) : State :=
  { clearDigits s with
    colonEnabled := false, spinMode := .none, spinPosition := 0, brightness := s.cfg.brightnessDefault }

/-- RESET (40_wire.md R119): the baseline, then the frames (a) to (d). -/
def execReset (s : State) : Host.Outcome State Fault Refusal :=
  let s := baseline s
  let s := emit s [layoutCmd s.cfg]
  let s := emit s [dataSetCmd s.cfg]
  let s := updateDisplayState s
  answerOk (redraw s)

/-- REDRAW (R120). -/
def execRedraw (s : State) : Host.Outcome State Fault Refusal := answerOk (redraw s)

/-- LAYOUT_SELECT (R112): the block sends its layout-select command; it has no path that sends another code
(30_encoding.md R82). A wire command is no request, so it has no response (notes/assumptions/8.md). -/
def execLayoutSelect (code : BitVec 2) (s : State) : Host.Outcome State Fault Refusal :=
  if sendsLayout s.cfg code then .next (emit s [layoutCmd s.cfg])
  else .refused (.neverEmitted (layoutByte s.cfg code))

/-- DATA_SET (R113): the block sends its data-set command (notes/assumptions/8.md). -/
def execDataSet (s : State) : Host.Outcome State Fault Refusal := .next (emit s [dataSetCmd s.cfg])

/-- DISPLAY_CTRL (R114): the block sends the display-control command with these operands
(notes/assumptions/8.md). -/
def execDisplayCtrl (on : Bool) (brightness : BitVec 3) (s : State) : Host.Outcome State Fault Refusal :=
  .next (emit s [displayCtrlCmd s.cfg on brightness])

/-- ADDR (R116): the address command of a digit leaves the block only inside a redraw frame, followed by the
digit's data byte (R117, R121), so sending it is sending that frame; the block has no path that sends
another slot (20_memory.md R54, 30_encoding.md R82; notes/assumptions/8.md). -/
def execAddr (sl : BitVec 4) (s : State) : Host.Outcome State Fault Refusal :=
  if sendsAddr s.cfg sl then .next (redraw s)
  else .refused (.neverEmitted (addrByte s.cfg sl))

end Sys2Proof.Machine
end

