-- ==== Sys2Proof/Machine/Dispatch.lean ====
section
/-! DEFINITION. The dispatch: one arm for each instruction. -/

namespace Sys2Proof.Machine

def exec (i : Instr) (s : State) : Host.Outcome State Fault Refusal :=
  match i with
  | .reset => Sys2Proof.Machine.execReset s
  | .enable => Sys2Proof.Machine.execEnable s
  | .disable => Sys2Proof.Machine.execDisable s
  | .setBrt value => Sys2Proof.Machine.execSetBrt value s
  | .setCol state => Sys2Proof.Machine.execSetCol state s
  | .tglCol => Sys2Proof.Machine.execTglCol s
  | .setDig index value triggerRedraw => Sys2Proof.Machine.execSetDig index value triggerRedraw s
  | .setSeg index bitmap => Sys2Proof.Machine.execSetSeg index bitmap s
  | .setVal value showLeadingZeros => Sys2Proof.Machine.execSetVal value showLeadingZeros s
  | .setSpin mode => Sys2Proof.Machine.execSetSpin mode s
  | .spin => Sys2Proof.Machine.execSpin s
  | .redraw => Sys2Proof.Machine.execRedraw s
  | .getBits value => Sys2Proof.Machine.execGetBits value s
  | .layoutSelect code => Sys2Proof.Machine.execLayoutSelect code s
  | .dataSet => Sys2Proof.Machine.execDataSet s
  | .displayCtrl on brightness => Sys2Proof.Machine.execDisplayCtrl on brightness s
  | .addr sl => Sys2Proof.Machine.execAddr sl s

end Sys2Proof.Machine
end

