-- ==== Sys2Proof/Machine/Step.lean ====
section
/-! DEFINITION. One step of the block: the next presented request, whole and atomic (20_memory.md R59, R62). -/

namespace Sys2Proof.Machine

/-- One step. With nothing presented the block leaves everything as it is (notes/assumptions/7.md). A legal
word runs; an illegal one is answered (60_exceptions.md R201); a byte that is no wire command is refused. -/
def step (s : State) : Host.Outcome State Fault Refusal :=
  match fetch s with
  | .idle => .next s
  | .run i t => exec i t
  | .illegal r t => .next (illegalRequest r t)
  | .unknownWire b => .refused (.neverEmitted b)

/-- s with a table row's bits presented as the very next code, in the row's format. -/
def State.withFetchWord (s : State) (nbits w : Nat) : State := present s (codeOfTable nbits w)

end Sys2Proof.Machine
end

