-- ==== Sys2Proof/Machine/Assembler.lean ====
section
/-! DEFINITION. The assembler syntax of 30_encoding.md R76 and the pseudo-requests of R77. -/

namespace Sys2Proof.Machine

/-- The pseudo-request BLANK i (R77). -/
def blank (i : Byte) : Instr := .setSeg i 0x00

/-- The pseudo-request SHOWHEX i, v (R77). -/
def showHex (i : Byte) (v : BitVec 32) : Instr := .setDig i v true

/-- The digits of the largest base R76 writes numbers in, in the order of their values. -/
def digitChars : List Char := "0123456789ABCDEF".toList

/-- The value of one digit in a base up to 16. R76 does not say in which case the hexadecimal digits A to F are
written: DESIGN CHOICE, both are read (notes/assumptions/15.md). -/
def digitValue (base : Nat) (c : Char) : Option Nat := (digitChars.take base).idxOf? c.toUpper

/-- A non-empty run of digits, read from the accumulator on. -/
def readDigits (base : Nat) : Nat → List Char → Option Nat
  | acc, [] => some acc
  | acc, c :: cs => (digitValue base c).bind fun d => readDigits base (acc * base + d) cs

/-- An operand, decimal or `0x` hexadecimal (R76). The `x` is read in lower case only, as R76 writes it
(notes/assumptions/15.md). -/
def readNumber : List Char → Option Nat
  | [] => none
  | ['0', 'x'] => none
  | '0' :: 'x' :: cs => readDigits 16 0 cs
  | cs => readDigits 10 0 cs

/-- Text without the spaces at its two ends. R76 does not say what white space is: DESIGN CHOICE, the space and
no other character (notes/assumptions/15.md). -/
def trim (cs : List Char) : List Char :=
  ((cs.dropWhile (· = ' ')).reverse.dropWhile (· = ' ')).reverse

/-- A line's mnemonic and its operands, which commas separate, with any number of spaces around each
(DESIGN CHOICE, notes/assumptions/15.md). -/
def splitLine (line : List Char) : List Char × List (List Char) :=
  let line := trim line
  let rest := trim (line.dropWhile (· ≠ ' '))
  (line.takeWhile (· ≠ ' '), if rest.isEmpty then [] else (rest.splitOn ',').map trim)

/-- A byte operand, 0..255. -/
def byteOperand (cs : List Char) : Option Byte :=
  ((readNumber cs).filter (· < 256)).map (BitVec.ofNat 8)

/-- A 32-bit operand, 0..2^32-1. -/
def wideOperand (cs : List Char) : Option (BitVec 32) :=
  ((readNumber cs).filter (· < 2 ^ 32)).map (BitVec.ofNat 32)

/-- A flag operand, 0 or 1. -/
def flagOperand (cs : List Char) : Option Bool :=
  ((readNumber cs).filter (· < 2)).map (· == 1)

/-- SETSPIN's operand: NONE, SINGLE or FULL, in upper case only (DESIGN CHOICE, notes/assumptions/15.md). -/
def modeOperand (cs : List Char) : Option SpinMode :=
  if cs = "NONE".toList then some .none
  else if cs = "SINGLE".toList then some .singleDigit
  else if cs = "FULL".toList then some .fullDisplay
  else none

/-- The instruction a mnemonic with no operands names. A mnemonic is read in upper case only, here and below
(DESIGN CHOICE, notes/assumptions/15.md). -/
def plainRequest (m : List Char) : Option Instr :=
  if m = "RESET".toList then some .reset
  else if m = "ENABLE".toList then some .enable
  else if m = "DISABLE".toList then some .disable
  else if m = "TGLCOL".toList then some .tglCol
  else if m = "SPIN".toList then some .spin
  else if m = "REDRAW".toList then some .redraw
  else none

/-- The instruction a mnemonic with one operand names. -/
def unaryRequest (m x : List Char) : Option Instr :=
  if m = "SETBRT".toList then (byteOperand x).map .setBrt
  else if m = "SETCOL".toList then (flagOperand x).map .setCol
  else if m = "SETSPIN".toList then (modeOperand x).map .setSpin
  else if m = "GETBITS".toList then (wideOperand x).map .getBits
  else if m = "BLANK".toList then (byteOperand x).map blank
  else none

/-- The instruction a mnemonic with two operands names. -/
def binaryRequest (m x y : List Char) : Option Instr :=
  if m = "SETSEG".toList then (byteOperand x).bind fun i => (byteOperand y).map (.setSeg i)
  else if m = "SETVAL".toList then (wideOperand x).bind fun v => (flagOperand y).map (.setVal v)
  else if m = "SHOWHEX".toList then (byteOperand x).bind fun i => (wideOperand y).map (showHex i)
  else none

/-- The request one line of assembly names; none where an operand is out of range or the line is not of
R76's form. -/
def parseRequest (line : String) : Option Instr :=
  match splitLine line.toList with
  | (m, []) => plainRequest m
  | (m, [x]) => unaryRequest m x
  | (m, [x, y]) => binaryRequest m x y
  | (m, [x, y, z]) =>
    if m = "SETDIG".toList then
      (byteOperand x).bind fun i => (wideOperand y).bind fun v => (flagOperand z).map (.setDig i v)
    else none
  | _ => none

/-- The word one line of assembly is assembled to (R76). -/
def assemble (line : String) : Option Code := (parseRequest line).map encode

end Sys2Proof.Machine
end

