-- ==== Sys2Proof/Safety.lean ====
section
/-! DEFINITION. What statements speak of: the invariants of 10_state.md R38, the frame shapes of 40_wire.md R121, a listener on the three lines, the digit writes of each instruction, runs of several requests, and what a request leaves alone. -/

namespace Sys2Proof.Machine

/-- spinPosition's legal range for each spinMode (10_state.md R29). -/
abbrev State.PositionLegal (s : State) : Prop :=
  match s.spinMode with
  | .none => s.spinPosition = 0
  | .singleDigit => s.spinPosition.toNat < singleSpinSteps
  | .fullDisplay => s.spinPosition.toNat < fullSpinSteps

/-- A one-byte command frame: LayoutCmd, DataSetCmd or DisplayCtrlCmd (40_wire.md R121). -/
def IsCommandFrame (c : Config) (f : Frame) : Prop :=
  f = [layoutCmd c] ∨ f = [dataSetCmd c] ∨ ∃ on b, f = [displayCtrlCmd c on b]

/-- A redraw frame: 2N bytes, AddrCmd(i) at byte 2i for each digit i in order (R117, R121). -/
def IsRedrawFrame (c : Config) (f : Frame) : Prop :=
  f.length = 2 * c.n ∧ ∀ i, i < c.n → f[2 * i]? = some (addrCmd c i)

/-- The last bit of W: bit 7 of the last byte of the last frame, false if W is empty (10_state.md R35). -/
def lastBit (w : List Frame) : Bool :=
  match w.flatten.getLast? with
  | some b => b.getLsbD 7
  | none => false

/-- The invariants (1) and (4) to (7) of 10_state.md R38 ((2) and (3) hold by type), a legal configuration
(60_exceptions.md R200, 00_scope.md R7), and the value DIO idles at (10_state.md R35). -/
structure State.Inv (s : State) : Prop where
  legal : s.cfg.Legal
  digitCount : s.digits.length = s.cfg.n
  position : s.PositionLegal
  stbHigh : s.lines.stb = true
  clkLow : s.lines.clk = false
  dioLast : s.lines.dio = lastBit s.wire

/-- The lines after a list of frames. -/
def linesAfter (l : Lines) (fs : List Frame) : Lines := fs.foldl driveFrame l

/-- t is s after an instruction that emits the frames fs and delivers the responses rs: W and the lines follow
the frames, and the configuration and the host's input stay. Nothing is said of the display state. -/
structure Emits (s t : State) (fs : List Frame) (rs : List Response) : Prop where
  cfg : t.cfg = s.cfg
  wire : t.wire = s.wire ++ fs
  lines : t.lines = linesAfter s.lines fs
  responses : t.responses = s.responses ++ rs
  pending : t.pending = s.pending

/-- The response (0, 0x00). -/
def Response.ok : Response := { err := false, data := 0x00 }

/-- The six registers of the display state (10_state.md R20(2)) are the same in both. -/
structure KeepsDisplay (s t : State) : Prop where
  digits : t.digits = s.digits
  colonEnabled : t.colonEnabled = s.colonEnabled
  powerOn : t.powerOn = s.powerOn
  brightness : t.brightness = s.brightness
  spinMode : t.spinMode = s.spinMode
  spinPosition : t.spinPosition = s.spinPosition

/-- Of the display state, at most the digits differ. -/
structure KeepsRegisters (s t : State) : Prop where
  digitCount : t.digits.length = s.digits.length
  colonEnabled : t.colonEnabled = s.colonEnabled
  powerOn : t.powerOn = s.powerOn
  brightness : t.brightness = s.brightness
  spinMode : t.spinMode = s.spinMode
  spinPosition : t.spinPosition = s.spinPosition

/-- The bits of the fields 30_encoding.md R71 marks "0" for an opcode: F is bit 43, A bits 39..32 and B bits
31..0. Written from R71's table, not from the decoder. -/
def zeroFields (op : Nat) : ReqWord :=
  if op = 0x3 then 0x0800FFFFFFFF
  else if op = 0x4 then 0x00FFFFFFFFFF
  else if op = 0x6 then 0x000000000000
  else if op = 0x7 then 0x0800FFFFFF00
  else if op = 0x8 then 0x00FF00000000
  else if op = 0x9 then 0x0800FFFFFFFF
  else if op = 0xC then 0x08FF00000000
  else 0x08FFFFFFFFFF

/-- The number a spin mode is in field A of SETSPIN (R71). -/
def modeNumber : SpinMode → Nat
  | .none => 0
  | .singleDigit => 1
  | .fullDisplay => 2

/-- OP, F, A and B of a request as numbers, by R71's table; none for a wire command. -/
def requestFields : Instr → Option (Nat × Nat × Nat × Nat)
  | .reset => some (0x0, 0, 0, 0)
  | .enable => some (0x1, 0, 0, 0)
  | .disable => some (0x2, 0, 0, 0)
  | .setBrt a => some (0x3, 0, a.toNat, 0)
  | .setCol f => some (0x4, f.toNat, 0, 0)
  | .tglCol => some (0x5, 0, 0, 0)
  | .setDig i v f => some (0x6, f.toNat, i.toNat, v.toNat)
  | .setSeg i m => some (0x7, 0, i.toNat, m.toNat)
  | .setVal v f => some (0x8, f.toNat, 0, v.toNat)
  | .setSpin m => some (0x9, 0, modeNumber m, 0)
  | .spin => some (0xA, 0, 0, 0)
  | .redraw => some (0xB, 0, 0, 0)
  | .getBits v => some (0xC, 0, 0, v.toNat)
  | .layoutSelect _ => none
  | .dataSet => none
  | .displayCtrl _ _ => none
  | .addr _ => none

/-- The redraw frame of N cleared digits with no colon: the pairs AddrCmd(i), 0x00 (40_wire.md R120). -/
def clearedFrame (c : Config) : Frame := (List.range c.n).flatMap fun i => [addrCmd c i, 0x00]

/-- The writes of SETVAL to a block with configuration c (41_setters.md R144), in its order: at digit i, from the
left, the blank where the digit and every digit left of it are zero, F is 0 and it is not the last; otherwise the
font entry of the decimal digit at place N-1-i. -/
def valueWrites (c : Config) (v : Nat) (showLeadingZeros : Bool) : List (Nat × Byte) :=
  (List.range c.n).map fun i =>
    (i, if showLeadingZeros = false ∧ i < c.n - 1 ∧ v % 10 ^ c.n / 10 ^ (c.n - 1 - i) = 0 then 0x00
      else font4 c (decDigit v (c.n - 1 - i)))

/-- The writes of SPIN (42_animation.md R182, R183, R184), by spinMode and the position before. -/
def spinWrites (s : State) : List (Nat × Byte) :=
  match s.spinMode with
  | .none => []
  | .singleDigit => [(0, spinBit s.spinPosition)]
  | .fullDisplay => (List.range fullSpinDigits).map fun j => (j, spinByte s.cfg s.spinPosition.toNat j)

/-- The digit-buffer writes of each instruction from the state s, index and bitmap, in order (20_memory.md R52). -/
def digitWrites (s : State) : Instr → List (Nat × Byte)
  | .reset => (List.range s.cfg.n).map fun i => (i, 0x00)
  | .enable => []
  | .disable => []
  | .setBrt _ => []
  | .setCol _ => []
  | .tglCol => []
  | .setDig index value _ => [(index.toNat, font4 s.cfg value.toNat)]
  | .setSeg index bitmap => [(index.toNat, bitmap)]
  | .setVal value showLeadingZeros => valueWrites s.cfg value.toNat showLeadingZeros
  | .setSpin _ => []
  | .spin => spinWrites s
  | .redraw => []
  | .getBits _ => []
  | .layoutSelect _ => []
  | .dataSet => []
  | .displayCtrl _ _ => []
  | .addr _ => []

/-- Bounded writes, one after the other. -/
def writeAll (ws : List (Nat × Byte)) (s : State) : State := ws.foldl (fun t w => memWrite t w.1 w.2) s

/-- A run of instructions, one after the other, stopping at the first that gives no next state. -/
def execAll : List Instr → State → Host.Outcome State Fault Refusal
  | [], s => .next s
  | i :: is, s =>
    match exec i s with
    | .next t => execAll is t
    | .fault r => .fault r
    | .refused r => .refused r

/-- What a listener on the three lines knows: the lines, the bits sampled in the open bracket, and the closed
brackets. It uses nothing of the transmitter. -/
structure Listener where
  lines : Lines
  bits : List Bool
  brackets : List (List Bool)
  deriving DecidableEq, Repr

/-- The listener before anything is sent, the lines idle. -/
def Listener.start (l : Lines) : Listener := { lines := l, bits := [], brackets := [] }

/-- One line assignment as heard: a falling STB opens a bracket, a rising CLK under a low STB samples DIO, a
rising STB closes the bracket (40_wire.md R110, R111). -/
def Listener.hear (h : Listener) (e : LineEvent) : Listener :=
  match e with
  | .stb false => { h with lines := driveLine h.lines e, bits := if h.lines.stb then [] else h.bits }
  | .stb true =>
    if h.lines.stb then h
    else { lines := driveLine h.lines e, bits := [], brackets := h.brackets ++ [h.bits] }
  | .clk true =>
    { h with
      lines := driveLine h.lines e
      bits := if h.lines.stb = false ∧ h.lines.clk = false then h.bits ++ [h.lines.dio] else h.bits }
  | .clk false => { h with lines := driveLine h.lines e }
  | .dio _ => { h with lines := driveLine h.lines e }

/-- The brackets a listener hears in a line history. -/
def heardBrackets (l : Lines) (es : List LineEvent) : List (List Bool) :=
  (es.foldl Listener.hear (Listener.start l)).brackets

/-- The bits of a frame in the order they are sent: bit 0 of the first byte first (20_memory.md R56, R57). -/
def frameBits (f : Frame) : List Bool := f.flatMap fun b => (List.range 8).map b.getLsbD

/-- The number of rising CLK edges in a line history that starts with the clock at level `clk`. -/
def risingEdges : Bool → List LineEvent → Nat
  | _, [] => 0
  | clk, .clk v :: es => (if v && !clk then 1 else 0) + risingEdges v es
  | clk, .stb _ :: es => risingEdges clk es
  | clk, .dio _ :: es => risingEdges clk es

/-- The step count of a spin mode (42_animation.md R180); None has none. -/
def spinSteps : SpinMode → Nat
  | .none => 1
  | .singleDigit => singleSpinSteps
  | .fullDisplay => fullSpinSteps

end Sys2Proof.Machine
end

