-- ==== Sys2Proof/WellFormed.lean ====
section
/-! DEFINITION. Which instructions are well formed for a block with a given configuration. -/

namespace Sys2Proof

/-- A host request is well formed whatever its operands: decoding has checked its word and its operands are
typed (30_encoding.md R72, R75). A wire command is well formed when the block has a path that sends it
(R81, R82): the layout code of its own LAYOUT, and the address of one of its N digits. -/
def WellFormed (c : Config) : Instr → Bool
  | .reset => true
  | .enable => true
  | .disable => true
  | .setBrt _ => true
  | .setCol _ => true
  | .tglCol => true
  | .setDig _ _ _ => true
  | .setSeg _ _ => true
  | .setVal _ _ => true
  | .setSpin _ => true
  | .spin => true
  | .redraw => true
  | .getBits _ => true
  | .layoutSelect code => Machine.sendsLayout c code
  | .dataSet => true
  | .displayCtrl _ _ => true
  | .addr sl => Machine.sendsAddr c sl

end Sys2Proof
end

