-- ==== Sys2Proof/Certificates/Slice0/Obligations.lean ====
section
/-! DEFINITION. The statements of the model, one for each entry of OBLIGATIONS.json. A docstring names the rule of spec/ a statement formalises, and the decision (D<n> of spec/92_eei_decisions.md) or log entry it rests on where it rests on one. -/

open Sys2Proof Sys2Proof.Machine

/-! ### Encoding -/

/-- Decoding the code of any instruction gives it back, with every operand at every value (R70, R71, R75, R81).
The request word is decision D2; wire bytes are decisions D7 to D10 (log entry 6), decoded by the model's choice
(log entry 8). -/
def Obligations.DecodeInvertsEncode : Prop :=
  ∀ i : Instr, decode (encode i) = .instr i

/-- A code that decodes to an instruction is that instruction's code: the decoder drops no bit and no two codes
name one instruction; a request word decodes to one of the thirteen requests (R73, R75). The request word is
decision D2; wire bytes are decisions D7 to D10 (log entry 6), decoded by the model's choice (log entry 8). -/
def Obligations.EncodeInvertsDecode : Prop :=
  ∀ (code : Code) (i : Instr), decode code = .instr i →
    encode i = code ∧ ((∃ w, code = .request w) ↔ i.isRequest = true)

/-- R70's number formula, with the operands where R71 places them. The word format is decision D2. -/
def Obligations.RequestWordFormula : Prop :=
  ∀ (i : Instr) (op f a b : Nat), requestFields i = some (op, f, a, b) →
    ∃ w : ReqWord, encode i = .request w ∧ w.toNat = op * 2 ^ 44 + f * 2 ^ 43 + 0 * 2 ^ 40 + a * 2 ^ 32 + b

/-- R75 and R201: which words are illegal and for which reason, the first failing check, read from the word as a
number and from R71's "0" fields; and what an illegal word does. Rests on decisions D2 to D4. -/
def Obligations.IllegalWordsAndTheirAnswer : Prop :=
  (∀ w : ReqWord,
    (decode (.request w) = .illegal .reservedOp ↔ 0xC < w.toNat / 2 ^ 44) ∧
    (decode (.request w) = .illegal .rsvNonzero ↔ w.toNat / 2 ^ 44 ≤ 0xC ∧ w.toNat / 2 ^ 40 % 8 ≠ 0) ∧
    (decode (.request w) = .illegal .unusedField ↔
      w.toNat / 2 ^ 44 ≤ 0xC ∧ w.toNat / 2 ^ 40 % 8 = 0 ∧ w &&& zeroFields (w.toNat / 2 ^ 44) ≠ 0) ∧
    (decode (.request w) = .illegal .badSpinMode ↔
      w.toNat / 2 ^ 44 = 0x9 ∧ w.toNat / 2 ^ 40 % 8 = 0 ∧ w &&& zeroFields 0x9 = 0 ∧
        3 ≤ w.toNat / 2 ^ 32 % 256)) ∧
  (∀ (s : State) (w : ReqWord) (rest : List Code) (r : IllegalReason),
    s.pending = .request w :: rest → decode (.request w) = .illegal r →
      step s = .next { s with pending := rest, responses := s.responses ++ [{ err := true, data := 0x00 }] })

/-- Words written out from 30_encoding.md R70, R71 and R81 and the instructions they stand for, one or more for
each family of the opcode table. The request word is decision D2. The bytes of the wire commands are decisions D7
to D10 (log entry 6), and that the model decodes a wire byte at all, which the block never does, is its own choice
(log entry 8). -/
def Obligations.SpecWordsDecode : Prop :=
  decode (.request 0x30FF00000000) = .instr (.setBrt 0xFF) ∧
  decode (.request 0x680300000006) = .instr (.setDig 3 6 true) ∧
  decode (.request 0x8000000004D2) = .instr (.setVal 1234 false) ∧
  decode (.request 0x900200000000) = .instr (.setSpin .fullDisplay) ∧
  decode (.request 0xB00000000000) = .instr .redraw ∧
  decode (.wire 0x03) = .instr (.layoutSelect 3) ∧
  decode (.wire 0x8F) = .instr (.displayCtrl true 7) ∧
  decode (.wire 0xC4) = .instr (.addr 4)

/-- A line of each form of R76's syntax, and of both pseudo-requests of R77, assembles to R70's word; the
operands are at the ends of their ranges, in decimal and in hexadecimal. An operand one past its range cannot be
assembled (R76), in each operand place. BLANK and SHOWHEX lines assemble to what the SETSEG and SETDIG lines
they stand for assemble to (R77), and the pseudo-requests' instructions are those for every operand. The syntax is
decision D27; no line here rests on log entry 15 (letter case and white space). -/
def Obligations.AssemblerFollowsSyntax : Prop :=
  (assemble "RESET" = some (.request 0x000000000000) ∧
   assemble "ENABLE" = some (.request 0x100000000000) ∧
   assemble "DISABLE" = some (.request 0x200000000000) ∧
   assemble "SETBRT 255" = some (.request 0x30FF00000000) ∧
   assemble "SETCOL 0" = some (.request 0x400000000000) ∧
   assemble "SETCOL 1" = some (.request 0x480000000000) ∧
   assemble "TGLCOL" = some (.request 0x500000000000)) ∧
  (assemble "SETDIG 3, 6, 1" = some (.request 0x680300000006) ∧
   assemble "SETDIG 255, 4294967295, 0" = some (.request 0x60FFFFFFFFFF) ∧
   assemble "SETSEG 0x02, 0x49" = some (.request 0x700200000049) ∧
   assemble "SETSEG 255, 255" = some (.request 0x70FF000000FF) ∧
   assemble "SETVAL 905, 1" = some (.request 0x880000000389) ∧
   assemble "SETVAL 4294967295, 0" = some (.request 0x8000FFFFFFFF)) ∧
  (assemble "SETSPIN NONE" = some (.request 0x900000000000) ∧
   assemble "SETSPIN SINGLE" = some (.request 0x900100000000) ∧
   assemble "SETSPIN FULL" = some (.request 0x900200000000) ∧
   assemble "SPIN" = some (.request 0xA00000000000) ∧
   assemble "REDRAW" = some (.request 0xB00000000000) ∧
   assemble "GETBITS 0x10" = some (.request 0xC00000000010) ∧
   assemble "GETBITS 4294967295" = some (.request 0xC000FFFFFFFF)) ∧
  (assemble "SETBRT 256" = none ∧ assemble "SETCOL 2" = none ∧
   assemble "SETDIG 256, 0, 0" = none ∧ assemble "SETDIG 0, 4294967296, 0" = none ∧
   assemble "SETDIG 0, 0, 2" = none ∧ assemble "SETSEG 256, 0" = none ∧ assemble "SETSEG 0, 256" = none ∧
   assemble "SETVAL 4294967296, 0" = none ∧ assemble "SETVAL 0, 2" = none ∧
   assemble "GETBITS 4294967296" = none) ∧
  (assemble "BLANK 2" = assemble "SETSEG 2, 0x00" ∧ assemble "BLANK 2" = some (.request 0x700200000000) ∧
   assemble "BLANK 255" = some (.request 0x70FF00000000) ∧ assemble "BLANK 256" = none ∧
   assemble "SHOWHEX 1, 0x10" = assemble "SETDIG 1, 0x10, 1" ∧
   assemble "SHOWHEX 1, 0x10" = some (.request 0x680100000010) ∧
   assemble "SHOWHEX 255, 4294967295" = some (.request 0x68FFFFFFFFFF) ∧
   assemble "SHOWHEX 256, 0" = none ∧ assemble "SHOWHEX 0, 4294967296" = none) ∧
  (∀ i : Byte, encode (blank i) = encode (.setSeg i 0x00)) ∧
  (∀ (i : Byte) (v : BitVec 32), encode (showHex i v) = encode (.setDig i v true))

/-! ### The step -/

/-- A step runs the decoded instruction: exec of it, on the state from which the request is taken (R62, R75). -/
def Obligations.StepRunsDecodedInstruction : Prop :=
  ∀ (s : State) (code : Code) (rest : List Code) (i : Instr),
    s.pending = code :: rest → decode code = .instr i → step s = exec i (s.withPending rest)

/-- With nothing presented a step leaves everything as it is, and a byte that is no wire command is refused.
The model's own conventions: log entries 7 and 8. -/
def Obligations.StepWithoutInstruction : Prop :=
  (∀ s : State, s.pending = [] → step s = .next s) ∧
  (∀ (s : State) (b : Byte) (rest : List Code),
    s.pending = .wire b :: rest → decode (.wire b) = .unknownWire b → step s = .refused (.neverEmitted b))

/-- Every host request word, legal or not, completes in one step in every state, and the step delivers exactly
one response: ERR = 1 only for an illegal word, DATA = FONT[B & 0xF] for a legal GETBITS and 0x00 otherwise
(30_encoding.md R78, 60_exceptions.md R205). Decisions D4 and D5. -/
def Obligations.EveryRequestAnswersOnce : Prop :=
  ∀ (s : State) (w : ReqWord) (rest : List Code), s.pending = .request w :: rest →
    ∃ (t : State) (r : Response), step s = .next t ∧ t.responses = s.responses ++ [r] ∧ t.pending = rest ∧
      (r.err = true ↔ ∃ reason, decode (.request w) = .illegal reason) ∧
      (∀ v : BitVec 32, decode (.request w) = .instr (.getBits v) →
        some r.data = s.cfg.font[v.toNat % 16]?) ∧
      ((∀ v : BitVec 32, decode (.request w) ≠ .instr (.getBits v)) → r.data = 0x00)

/-- The host's request sequence takes the place of a program (10_state.md R24, 20_memory.md R62): stepping
through the codes of a list of instructions is executing the instructions in order. -/
def Obligations.StepsFollowThePresentedSequence : Prop :=
  ∀ (is : List Instr) (s : State) (rest : List Code), s.pending = is.map encode ++ rest →
    core.run is.length s = execAll is (s.withPending rest)

/-! ### Construction -/

/-- Construction raises ConfigError, with N as its info, exactly for N outside 1..4 (60_exceptions.md R200; for
N = 0 decision D6); a legal parameter set gives the power-on state. -/
def Obligations.ConstructionChecksDigitCount : Prop :=
  ∀ c : Config,
    (¬ (1 ≤ c.n ∧ c.n ≤ 4) → construct c = .fault (.configError c.n)) ∧
    (1 ≤ c.n ∧ c.n ≤ 4 → ∀ k, construct c ≠ .fault (.configError k)) ∧
    (c.Legal → construct c = .next (State.powerUp c))

/-- The state after construction (10_state.md R32, R33, 70_reset_and_hazards.md R230): all N digits 0x00, colon
off, spinner (None, 0), brightness and power at their configured values, idle lines, no frame, no response.
Decisions D15 to D17. -/
def Obligations.PowerOnState : Prop :=
  ∀ c : Config, c.Legal → ∃ t : State, construct c = .next t ∧ t.cfg = c ∧
    t.digits.length = c.n ∧ (∀ i, i < c.n → memRead t i = some 0x00) ∧
    t.colonEnabled = false ∧ t.spinMode = .none ∧ t.spinPosition = 0 ∧ t.brightness = c.brightnessDefault ∧
    t.powerOn = c.powerOnInitial ∧ t.lines.stb = true ∧ t.lines.clk = false ∧ t.lines.dio = false ∧
    t.wire = [] ∧ t.responses = [] ∧ t.pending = []

/-! ### Requests: what each does, and its frame -/

/-- RESET (40_wire.md R119, 10_state.md R32): the baseline, powerOn left as it is, and the four frames in order,
the last one N cleared pairs. Decisions D16 and D19. -/
def Obligations.ResetGivesBaselineAndFourFrames : Prop :=
  ∀ s : State, s.digits.length = s.cfg.n →
    ∃ t : State, exec .reset s = .next t ∧
      Emits s t [[layoutCmd s.cfg], [dataSetCmd s.cfg],
        [displayCtrlCmd s.cfg s.powerOn s.cfg.brightnessDefault], clearedFrame s.cfg] [Response.ok] ∧
      t.digits.length = s.cfg.n ∧ (∀ i, i < s.cfg.n → memRead t i = some 0x00) ∧
      t.colonEnabled = false ∧ t.spinMode = .none ∧ t.spinPosition = 0 ∧
      t.brightness = s.cfg.brightnessDefault ∧ t.powerOn = s.powerOn

/-- Redraw (40_wire.md R117) as REDRAW sends it: one frame of 2N bytes, AddrCmd(i) and then D[i] with the colon
mask on positions 0 and 1 while the colon is enabled; no state written. -/
def Obligations.RedrawSendsEveryDigit : Prop :=
  ∀ s : State, s.digits.length = s.cfg.n →
    ∃ (t : State) (f : Frame), exec .redraw s = .next t ∧ Emits s t [f] [Response.ok] ∧ KeepsDisplay s t ∧
      f.length = 2 * s.cfg.n ∧
      ∀ i, i < s.cfg.n → ∀ d, memRead s i = some d →
        f[2 * i]? = some (s.cfg.cmdAddrBase ||| (s.cfg.digitAddrBase + BitVec.ofNat 8 (2 * i))) ∧
        f[2 * i + 1]? = some (d ||| if s.colonEnabled = true ∧ i < 2 then s.cfg.colonMask else 0x00)

/-- reset() followed by redraw() emits exactly N address/data pairs in one bracket, with digits cleared to 0x00
(the source's property quoted in 40_wire.md R120); a second REDRAW emits an equal frame. -/
def Obligations.RedrawAfterResetSendsClearedPairs : Prop :=
  ∀ s : State, s.digits.length = s.cfg.n →
    ∃ t u v : State, exec .reset s = .next t ∧ exec .redraw t = .next u ∧ exec .redraw u = .next v ∧
      u.wire = t.wire ++ [clearedFrame s.cfg] ∧ v.wire = u.wire ++ [clearedFrame s.cfg]

/-- SETBRT (41_setters.md R147): its word, brightness is A & 0x7, and one display-control frame carries it with the current
power state, changed or not. -/
def Obligations.SetBrightnessMasksAndSends : Prop :=
  ∀ (s : State) (a : Byte), encode (.setBrt a) = .request (BitVec.ofNat 48 (0x3 * 2 ^ 44 + a.toNat * 2 ^ 32)) ∧
    ∃ t : State, exec (.setBrt a) s = .next t ∧
    Emits s t [[displayCtrlCmd s.cfg s.powerOn (BitVec.ofNat 3 (a.toNat % 8))]] [Response.ok] ∧
    t.brightness.toNat = a.toNat % 8 ∧ t.digits = s.digits ∧ t.colonEnabled = s.colonEnabled ∧
    t.powerOn = s.powerOn ∧ t.spinMode = s.spinMode ∧ t.spinPosition = s.spinPosition

/-- ENABLE and DISABLE (41_setters.md R148, R149): their words, powerOn is set, one display-control frame carries
it with the kept brightness, nothing else of the display state changes, and a later redraw is still sent. -/
def Obligations.PowerRequestsSetPowerAndSend : Prop :=
  encode .enable = .request (BitVec.ofNat 48 (0x1 * 2 ^ 44)) ∧
  encode .disable = .request (BitVec.ofNat 48 (0x2 * 2 ^ 44)) ∧
  ∀ (s : State) (on : Bool), ∃ t u : State, exec (if on then .enable else .disable) s = .next t ∧
    exec .redraw t = .next u ∧ Emits t u [redrawFrame s] [Response.ok] ∧
    Emits s t [[displayCtrlCmd s.cfg on s.brightness]] [Response.ok] ∧
    t.powerOn = on ∧ t.digits = s.digits ∧ t.colonEnabled = s.colonEnabled ∧
    t.brightness = s.brightness ∧ t.spinMode = s.spinMode ∧ t.spinPosition = s.spinPosition

/-- SETCOL (41_setters.md R145): its word; on a change colonEnabled is written and one redraw is sent; otherwise nothing.
D is never changed. -/
def Obligations.SetColonRedrawsOnChangeOnly : Prop :=
  ∀ (s : State) (f : Bool), encode (.setCol f) = .request (BitVec.ofNat 48 (0x4 * 2 ^ 44 + f.toNat * 2 ^ 43)) ∧
    ∃ t : State, exec (.setCol f) s = .next t ∧
    Emits s t (if f = s.colonEnabled then [] else [redrawFrame { s with colonEnabled := f }]) [Response.ok] ∧
    t.colonEnabled = f ∧ t.digits = s.digits ∧ t.powerOn = s.powerOn ∧ t.brightness = s.brightness ∧
    t.spinMode = s.spinMode ∧ t.spinPosition = s.spinPosition

/-- setColon(f) twice in a row triggers exactly one redraw where the first changes the colon (R145). -/
def Obligations.SetColonTwiceRedrawsOnce : Prop :=
  ∀ (s : State) (f : Bool), s.colonEnabled = !f →
    ∃ t u : State, exec (.setCol f) s = .next t ∧ exec (.setCol f) t = .next u ∧
      t.wire = s.wire ++ [redrawFrame t] ∧ u.wire = t.wire ∧ u.colonEnabled = f

/-- TGLCOL (41_setters.md R146): its word, and SETCOL's body with the opposite of colonEnabled, so colonEnabled flips and one
redraw is sent; two restore it and send two frames. -/
def Obligations.ToggleColonFlipsAndRedraws : Prop :=
  encode .tglCol = .request (BitVec.ofNat 48 (0x5 * 2 ^ 44)) ∧
  ∀ s : State, ∃ t u : State, exec .tglCol s = .next t ∧ exec .tglCol t = .next u ∧
    exec .tglCol s = exec (.setCol (!s.colonEnabled)) s ∧
    Emits s t [redrawFrame { s with colonEnabled := !s.colonEnabled }] [Response.ok] ∧
    t.colonEnabled = (!s.colonEnabled) ∧ t.digits = s.digits ∧ t.powerOn = s.powerOn ∧
    t.brightness = s.brightness ∧ t.spinMode = s.spinMode ∧ t.spinPosition = s.spinPosition ∧
    u.colonEnabled = s.colonEnabled ∧ u.wire.length = s.wire.length + 2

/-- The bounded write (20_memory.md R52): D[i] <- v for i < N and no effect otherwise, for an index of any
size. Every digit-buffer write of every instruction goes through it: the digits after an instruction are those
before it with the instruction's own writes, named in `digitWrites`, applied by it in order; N digits stay N.
The named values follow decisions D14 (the order of SPIN_TABLE, log entry 5) and D20 (SETVAL, log entry 13). -/
def Obligations.BoundedWrite : Prop :=
  (∀ (i : Instr) (s t : State), exec i s = .next t →
    t.digits = (writeAll (digitWrites s i) s).digits ∧ (s.digits.length = s.cfg.n → t.digits.length = s.cfg.n)) ∧
  ∀ (s : State) (i : Nat) (v : Byte), s.digits.length = s.cfg.n →
    (i < s.cfg.n → memRead (memWrite s i v) i = some v) ∧
    (∀ j, j ≠ i → memRead (memWrite s i v) j = memRead s j) ∧
    (s.cfg.n ≤ i → memWrite s i v = s) ∧
    KeepsRegisters s (memWrite s i v)

/-- SETSEG (41_setters.md R141): its word, D[A] is the bitmap when A < N, no digit changes otherwise, and no frame is
sent. -/
def Obligations.SetSegmentsWritesOneDigit : Prop :=
  ∀ (s : State) (a m : Byte), s.digits.length = s.cfg.n →
    encode (.setSeg a m) = .request (BitVec.ofNat 48 (0x7 * 2 ^ 44 + a.toNat * 2 ^ 32 + m.toNat)) ∧
    ∃ t : State, exec (.setSeg a m) s = .next t ∧ Emits s t [] [Response.ok] ∧ KeepsRegisters s t ∧
      (a.toNat < s.cfg.n → memRead t a.toNat = some m) ∧
      (∀ j, j ≠ a.toNat → memRead t j = memRead s j) ∧
      (s.cfg.n ≤ a.toNat → t.digits = s.digits)

/-- SETDIG (41_setters.md R142): D[A] is FONT[B & 0xF] when A < N, no digit changes otherwise; one redraw is sent
exactly when F = 1, out of range too (decision D21). -/
def Obligations.SetDigitWritesFontEntry : Prop :=
  ∀ (s : State) (a : Byte) (v : BitVec 32) (f : Bool), s.digits.length = s.cfg.n →
    ∃ t : State, exec (.setDig a v f) s = .next t ∧
      Emits s t (if f then [redrawFrame t] else []) [Response.ok] ∧ KeepsRegisters s t ∧
      (a.toNat < s.cfg.n → memRead t a.toNat = s.cfg.font[v.toNat % 16]?) ∧
      (∀ j, j ≠ a.toNat → memRead t j = memRead s j) ∧
      (s.cfg.n ≤ a.toNat → t.digits = s.digits)

/-- SETVAL (41_setters.md R143, R144): digit i shows the decimal digit at place N-1-i, most significant first,
blank where it and every digit left of it are zero, unless F = 1 or it is the last; one redraw. The operand's
width and the truncation of values ≥ 10^N are decision D20. -/
def Obligations.SetValueShowsDecimalDigits : Prop :=
  ∀ (s : State) (v : BitVec 32) (f : Bool), s.digits.length = s.cfg.n →
    ∃ t : State, exec (.setVal v f) s = .next t ∧ Emits s t [redrawFrame t] [Response.ok] ∧
      KeepsRegisters s t ∧
      ∀ i, i < s.cfg.n → memRead t i =
        if f = false ∧ i < s.cfg.n - 1 ∧ v.toNat % 10 ^ s.cfg.n / 10 ^ (s.cfg.n - 1 - i) = 0 then some 0x00
        else s.cfg.font[v.toNat / 10 ^ (s.cfg.n - 1 - i) % 10]?

/-- The decimal digits of the n lowest places represent v mod 10^n, and v itself when v < 10^n
(41_setters.md R143); for v ≥ 10^n this is decision D20. -/
def Obligations.DecimalDigitsRepresentValue : Prop :=
  ∀ v n : Nat,
    ((List.range n).map fun k => decDigit v k * 10 ^ k).sum = v % 10 ^ n ∧
    (v < 10 ^ n → ((List.range n).map fun k => decDigit v k * 10 ^ k).sum = v) ∧
    ∀ k, decDigit v k ≤ 9

/-- GETBITS (41_setters.md R140): the response carries FONT[B & 0xF]; no state written and no frame.
That it masks is decision D23. -/
def Obligations.GetBitsAnswersFontEntry : Prop :=
  ∀ (s : State) (v : BitVec 32), ∃ (t : State) (d : Byte), exec (.getBits v) s = .next t ∧
    s.cfg.font[v.toNat % 16]? = some d ∧ Emits s t [] [{ err := false, data := d }] ∧ KeepsDisplay s t

/-- Font4 masks its operand to four bits before the lookup, for any unsigned value (30_encoding.md R84). -/
def Obligations.FontLookupMasks : Prop :=
  ∀ (c : Config) (v : Nat), c.font[v % 16]? = some (font4 c v) ∧ font4 c v = font4 c (v % 16)

/-- SETSPIN (42_animation.md R181): the mode is written and the position reset, in every state; no digit is
written and no frame sent (decision D22). -/
def Obligations.SetSpinResetsPosition : Prop :=
  ∀ (s : State) (m : SpinMode), ∃ t : State, exec (.setSpin m) s = .next t ∧ Emits s t [] [Response.ok] ∧
    t.spinMode = m ∧ t.spinPosition = 0 ∧ t.digits = s.digits ∧ t.colonEnabled = s.colonEnabled ∧
    t.powerOn = s.powerOn ∧ t.brightness = s.brightness

/-- SPIN in mode None does nothing but answer, and RESET sets None (42_animation.md R182); SPIN's word. -/
def Obligations.SpinInModeNoneDoesNothing : Prop :=
  encode .spin = .request (BitVec.ofNat 48 (0xA * 2 ^ 44)) ∧
  (∀ s : State, ∃ t u : State, exec .reset s = .next t ∧ exec .spin t = .next u ∧
    Emits t u [] [Response.ok] ∧ KeepsDisplay t u) ∧
  ∀ s : State, s.spinMode = .none →
    ∃ t : State, exec .spin s = .next t ∧ Emits s t [] [Response.ok] ∧ KeepsDisplay s t

/-- SPIN in mode SingleDigit (42_animation.md R183): digit 0 becomes the one bit 1 << p of the position before,
every other digit stays, the position advances modulo 6, and one redraw is sent. -/
def Obligations.SpinSingleRotatesOneSegment : Prop :=
  ∀ s : State, s.Inv → s.spinMode = .singleDigit →
    ∃ t : State, exec .spin s = .next t ∧ Emits s t [redrawFrame t] [Response.ok] ∧
      memRead t 0 = some (BitVec.ofNat 8 (2 ^ s.spinPosition.toNat)) ∧
      (∀ j, j ≠ 0 → memRead t j = memRead s j) ∧ t.digits.length = s.digits.length ∧
      t.spinPosition.toNat = (s.spinPosition.toNat + 1) % 6 ∧
      t.spinMode = s.spinMode ∧ t.colonEnabled = s.colonEnabled ∧ t.powerOn = s.powerOn ∧
      t.brightness = s.brightness

/-- SPIN in mode FullDisplay (42_animation.md R184, R185): byte j of the table's frame p goes to digit j for the
digits there are, the position advances modulo 12, and one redraw of 2N bytes is sent. That byte j of frame p is
entry 4p + j of the table, the frame-major order of 30_encoding.md R86, is decision D14 (log entry 5). -/
def Obligations.SpinFullShowsTableFrame : Prop :=
  ∀ s : State, s.Inv → s.spinMode = .fullDisplay →
    ∃ t : State, exec .spin s = .next t ∧ Emits s t [redrawFrame t] [Response.ok] ∧
      (redrawFrame t).length = 2 * s.cfg.n ∧
      (∀ j, j < s.cfg.n → memRead t j = s.cfg.spinTable[4 * s.spinPosition.toNat + j]?) ∧
      t.digits.length = s.cfg.n ∧
      t.spinPosition.toNat = (s.spinPosition.toNat + 1) % 12 ∧
      t.spinMode = s.spinMode ∧ t.colonEnabled = s.colonEnabled ∧ t.powerOn = s.powerOn ∧
      t.brightness = s.brightness

/-! ### Wire commands: the block's own transmission of each (log entry 8) -/

/-- LAYOUT_SELECT and ADDR complete for the bytes the block has a path to send, and are refused by name for every
other (40_wire.md R112, R116, 30_encoding.md R82). That a command is executed by sending it is the model's
choice, log entry 8. -/
def Obligations.LayoutAndAddressCommandsSendOrRefuse : Prop :=
  (∀ (s : State) (code : BitVec 2), s.cfg.cmdLayoutBase ||| code.setWidth 8 = layoutCmd s.cfg →
    ∃ t : State, exec (.layoutSelect code) s = .next t ∧ Emits s t [[layoutCmd s.cfg]] [] ∧ KeepsDisplay s t) ∧
  (∀ (s : State) (code : BitVec 2), s.cfg.cmdLayoutBase ||| code.setWidth 8 ≠ layoutCmd s.cfg →
    exec (.layoutSelect code) s = .refused (.neverEmitted (s.cfg.cmdLayoutBase ||| code.setWidth 8))) ∧
  (∀ (s : State) (sl : BitVec 4) (i : Nat), i < s.cfg.n → s.cfg.cmdAddrBase ||| sl.setWidth 8 = addrCmd s.cfg i →
    ∃ t : State, exec (.addr sl) s = .next t ∧ Emits s t [redrawFrame s] [] ∧ KeepsDisplay s t) ∧
  (∀ (s : State) (sl : BitVec 4), (∀ i, i < s.cfg.n → s.cfg.cmdAddrBase ||| sl.setWidth 8 ≠ addrCmd s.cfg i) →
    exec (.addr sl) s = .refused (.neverEmitted (s.cfg.cmdAddrBase ||| sl.setWidth 8)))

/-- DATA_SET and DISPLAY_CTRL complete in every state with one one-byte frame (40_wire.md R113, R114). That a
command is executed by sending it is the model's choice, log entry 8. -/
def Obligations.DataSetAndDisplayControlCommandsSend : Prop :=
  (∀ s : State, ∃ t : State, exec .dataSet s = .next t ∧
    Emits s t [[s.cfg.cmdDataSetBase ||| s.cfg.dataWriteBit ||| s.cfg.dataAutoincBit ||| s.cfg.dataNormalBit]] [] ∧
    KeepsDisplay s t) ∧
  (∀ (s : State) (on : Bool) (b : BitVec 3), ∃ t : State, exec (.displayCtrl on b) s = .next t ∧
    Emits s t [[s.cfg.cmdDisplayCtrlBase ||| (if on then s.cfg.displayOnBit else 0x00) ||| b.setWidth 8]] [] ∧
    KeepsDisplay s t)

/-- With the reference constants the command bytes are those of 30_encoding.md R81. Decisions D7 to D10, log
entry 6. -/
def Obligations.ReferenceCommandBytes : Prop :=
  layoutCmd { referenceConfig with layout := .layout6x12 } = 0x02 ∧
  layoutCmd { referenceConfig with layout := .layout7x11 } = 0x03 ∧
  dataSetCmd referenceConfig = 0x40 ∧
  (∀ (on : Bool) (b : BitVec 3),
    (displayCtrlCmd referenceConfig on b).toNat = 0x80 + (if on then 0x08 else 0) + b.toNat) ∧
  (∀ i, i < 4 → (addrCmd referenceConfig i).toNat = 0xC0 + 2 * i)

/-! ### The wire -/

/-- A listener that samples DIO at rising CLK edges under a low STB hears exactly the frames sent, bit 0 of each
byte first (40_wire.md R110, R111, 20_memory.md R56); so the line history determines W. The edge and the idle
levels are decision D18. -/
def Obligations.ListenerHearsTheFrames : Prop :=
  (∀ (dio : Bool) (fs : List Frame),
    heardBrackets { stb := true, clk := false, dio := dio } (fs.flatMap frameEvents) = fs.map frameBits) ∧
  (∀ fs gs : List Frame, fs.flatMap frameEvents = gs.flatMap frameEvents → fs = gs)

/-- A frame of n bytes makes exactly 8n rising CLK edges inside one STB-low interval (40_wire.md R111). Decision
D18. -/
def Obligations.FrameMakesEightEdgesPerByte : Prop :=
  ∀ f : Frame, risingEdges false (frameEvents f) = 8 * f.length ∧
    ∃ body : List LineEvent, frameEvents f = .stb false :: (body ++ [.stb true]) ∧
      ∀ e ∈ body, ∀ v, e ≠ .stb v

/-- The lines are what the line history since construction leaves, at power-on and after every step
(40_wire.md R111: the only line transitions the block makes). The per-bit sequence and the power-on levels are
decisions D18 and D17 (log entry 11). -/
def Obligations.LinesFollowTheWireTrace : Prop :=
  ∀ c : Config,
    (State.powerUp c).lines = (lineTrace (State.powerUp c)).foldl driveLine (State.powerUp c).lines ∧
    ∀ s t : State, s.lines = (lineTrace s).foldl driveLine (State.powerUp c).lines → step s = .next t →
      t.lines = (lineTrace t).foldl driveLine (State.powerUp c).lines

/-- W is only ever appended to, and every frame a step appends is non-empty and of one of R121's two kinds
(10_state.md R36, 40_wire.md R121). -/
def Obligations.StepAppendsFramesOfTwoKinds : Prop :=
  ∀ s t : State, s.Inv → step s = .next t →
    ∃ fs : List Frame, t.wire = s.wire ++ fs ∧
      ∀ f ∈ fs, f ≠ [] ∧ (IsCommandFrame s.cfg f ∨ IsRedrawFrame s.cfg f)

/-! ### Invariants and whole-machine rules -/

/-- The invariants hold after construction (10_state.md R38 with R33). The construction values they speak of, the
cleared digits, the spinner, the idle lines and DIO, are decision D17 (log entries 3 and 11), as
70_reset_and_hazards.md R231 marks them. -/
def Obligations.PowerOnInvariant : Prop :=
  ∀ c : Config, c.Legal → (State.powerUp c).Inv

/-- Every step keeps the invariants: exactly N digit registers, the position in its mode's range, the lines idle
between requests (10_state.md R38), a legal configuration, and DIO at the last bit sent (R35). That CLK idles low,
STB high and DIO at the last bit is decision D18 (log entry 11). -/
def Obligations.StepKeepsInvariant : Prop :=
  ∀ s t : State, s.Inv → step s = .next t → t.Inv

/-- Which instructions may change which register (10_state.md R23, R25 to R31): for every other instruction the
register is the same. The configuration has no writer (R30). -/
def Obligations.OnlyNamedRequestsWriteARegister : Prop :=
  ∀ (i : Instr) (s t : State), exec i s = .next t →
    t.cfg = s.cfg ∧
    (t.colonEnabled ≠ s.colonEnabled → i = .reset ∨ i = .tglCol ∨ ∃ f, i = .setCol f) ∧
    (t.powerOn ≠ s.powerOn → i = .enable ∨ i = .disable) ∧
    (t.brightness ≠ s.brightness → i = .reset ∨ ∃ a, i = .setBrt a) ∧
    (t.spinMode ≠ s.spinMode → i = .reset ∨ ∃ m, i = .setSpin m) ∧
    (t.spinPosition ≠ s.spinPosition → i = .reset ∨ i = .spin ∨ ∃ m, i = .setSpin m) ∧
    (t.digits ≠ s.digits →
      i = .reset ∨ i = .spin ∨ (∃ a m, i = .setSeg a m) ∨ (∃ a v f, i = .setDig a v f) ∨ ∃ v f, i = .setVal v f)

/-- Whenever a request changes powerOn or brightness, a display-control frame carrying both new values is sent
(40_wire.md R115, 70_reset_and_hazards.md R245). -/
def Obligations.PowerAndBrightnessChangesAreSent : Prop :=
  ∀ (i : Instr) (s t : State), exec i s = .next t → t.powerOn ≠ s.powerOn ∨ t.brightness ≠ s.brightness →
    ∃ fs : List Frame, t.wire = s.wire ++ fs ∧ [displayCtrlCmd s.cfg t.powerOn t.brightness] ∈ fs

/-- powerOn switches the display, not the block (60_exceptions.md R214, 70_reset_and_hazards.md R246): two states
that differ in powerOn alone run every request to states that differ in nothing else, with as many frames,
equal but for the on bit of display-control frames. -/
def Obligations.PowerChangesOnlyTheOnBit : Prop :=
  ∀ (i : Instr) (s : State) (on : Bool), i.isRequest = true →
    ∃ (t u : State) (fs gs : List Frame), exec i s = .next t ∧ exec i { s with powerOn := on } = .next u ∧
      t.wire = s.wire ++ fs ∧ u.wire = s.wire ++ gs ∧ fs.length = gs.length ∧
      t.digits = u.digits ∧ t.colonEnabled = u.colonEnabled ∧ t.brightness = u.brightness ∧
      t.spinMode = u.spinMode ∧ t.spinPosition = u.spinPosition ∧ t.responses = u.responses ∧
      ∀ (k : Nat) (f g : Frame), fs[k]? = some f → gs[k]? = some g →
        f = g ∨ ∃ p q b, f = [displayCtrlCmd s.cfg p b] ∧ g = [displayCtrlCmd s.cfg q b]

/-- The colon is never stored (10_state.md R38(8), 40_wire.md R118), whatever COLON_MASK is. SETCOL and TGLCOL
leave every digit as it is, with any font. A bit of the mask comes into a digit only by a SETSEG or SPIN value or
a font entry: with a font whose entries have that bit clear, every other instruction leaves no digit with that
bit newly set. With the reference mask, decision D11 (log entry 6), the bit is bit 7. -/
def Obligations.ColonIsNeverStored : Prop :=
  (∀ (i : Instr) (s t : State), (i = .tglCol ∨ ∃ f, i = .setCol f) → exec i s = .next t → t.digits = s.digits) ∧
  ∀ (i : Instr) (s t : State) (b : Nat), s.cfg.colonMask.getLsbD b = true →
    (∀ k (h : k < 16), s.cfg.font[k].getLsbD b = false) →
    i ≠ .spin → (∀ a m, i ≠ .setSeg a m) → exec i s = .next t →
      ∀ (j : Nat) (d : Byte), memRead t j = some d → d.getLsbD b = true → memRead s j = some d

/-- The sequencing law (42_animation.md R186): after SETSPIN to mode m and then requests among which there is no
SETSPIN and no RESET and k SPINs, the position is k mod steps(m), and the next SPIN writes frame
k mod steps(m) (R183, R184). That byte j of frame p is entry 4p + j of the table, the frame-major order of
30_encoding.md R86, is decision D14 (log entry 5). -/
def Obligations.SpinnerSequencingLaw : Prop :=
  ∀ (s : State) (m : SpinMode) (is : List Instr), s.Inv → m ≠ .none →
    (∀ i ∈ is, i.isRequest = true ∧ i ≠ .reset ∧ ∀ m', i ≠ .setSpin m') →
    ∃ t0 t u : State, exec (.setSpin m) s = .next t0 ∧ execAll is t0 = .next t ∧ exec .spin t = .next u ∧
      t.spinMode = m ∧ t.spinPosition.toNat = is.count .spin % spinSteps m ∧
      (m = .singleDigit → memRead u 0 = some (BitVec.ofNat 8 (2 ^ (is.count .spin % 6)))) ∧
      (m = .fullDisplay → ∀ j, j < s.cfg.n →
        memRead u j = s.cfg.spinTable[4 * (is.count .spin % 12) + j]?)
end

