-- ==== Sys2Proof/Laws/State.lean ====
section
/-! SUPPORT. One lemma per field and update of the state, true by rfl, so that no proof unfolds a record update. -/

namespace Sys2Proof.Machine

@[simp] theorem memWrite_cfg (s : State) (i : Nat) (v : Byte) : (memWrite s i v).cfg = s.cfg := rfl
@[simp] theorem memWrite_digits (s : State) (i : Nat) (v : Byte) :
    (memWrite s i v).digits = if i < s.cfg.n then s.digits.set i v else s.digits := rfl
@[simp] theorem memWrite_colonEnabled (s : State) (i : Nat) (v : Byte) :
    (memWrite s i v).colonEnabled = s.colonEnabled := rfl
@[simp] theorem memWrite_powerOn (s : State) (i : Nat) (v : Byte) : (memWrite s i v).powerOn = s.powerOn := rfl
@[simp] theorem memWrite_brightness (s : State) (i : Nat) (v : Byte) :
    (memWrite s i v).brightness = s.brightness := rfl
@[simp] theorem memWrite_spinMode (s : State) (i : Nat) (v : Byte) : (memWrite s i v).spinMode = s.spinMode := rfl
@[simp] theorem memWrite_spinPosition (s : State) (i : Nat) (v : Byte) :
    (memWrite s i v).spinPosition = s.spinPosition := rfl
@[simp] theorem memWrite_lines (s : State) (i : Nat) (v : Byte) : (memWrite s i v).lines = s.lines := rfl
@[simp] theorem memWrite_wire (s : State) (i : Nat) (v : Byte) : (memWrite s i v).wire = s.wire := rfl
@[simp] theorem memWrite_responses (s : State) (i : Nat) (v : Byte) : (memWrite s i v).responses = s.responses := rfl
@[simp] theorem memWrite_pending (s : State) (i : Nat) (v : Byte) : (memWrite s i v).pending = s.pending := rfl

@[simp] theorem emit_cfg (s : State) (f : Frame) : (emit s f).cfg = s.cfg := rfl
@[simp] theorem emit_digits (s : State) (f : Frame) : (emit s f).digits = s.digits := rfl
@[simp] theorem emit_colonEnabled (s : State) (f : Frame) : (emit s f).colonEnabled = s.colonEnabled := rfl
@[simp] theorem emit_powerOn (s : State) (f : Frame) : (emit s f).powerOn = s.powerOn := rfl
@[simp] theorem emit_brightness (s : State) (f : Frame) : (emit s f).brightness = s.brightness := rfl
@[simp] theorem emit_spinMode (s : State) (f : Frame) : (emit s f).spinMode = s.spinMode := rfl
@[simp] theorem emit_spinPosition (s : State) (f : Frame) : (emit s f).spinPosition = s.spinPosition := rfl
@[simp] theorem emit_lines (s : State) (f : Frame) : (emit s f).lines = driveFrame s.lines f := rfl
@[simp] theorem emit_wire (s : State) (f : Frame) : (emit s f).wire = s.wire ++ [f] := rfl
@[simp] theorem emit_responses (s : State) (f : Frame) : (emit s f).responses = s.responses := rfl
@[simp] theorem emit_pending (s : State) (f : Frame) : (emit s f).pending = s.pending := rfl

@[simp] theorem updateDisplayState_cfg (s : State) : (updateDisplayState s).cfg = s.cfg := rfl
@[simp] theorem updateDisplayState_digits (s : State) : (updateDisplayState s).digits = s.digits := rfl
@[simp] theorem updateDisplayState_colonEnabled (s : State) :
    (updateDisplayState s).colonEnabled = s.colonEnabled := rfl
@[simp] theorem updateDisplayState_powerOn (s : State) : (updateDisplayState s).powerOn = s.powerOn := rfl
@[simp] theorem updateDisplayState_brightness (s : State) : (updateDisplayState s).brightness = s.brightness := rfl
@[simp] theorem updateDisplayState_spinMode (s : State) : (updateDisplayState s).spinMode = s.spinMode := rfl
@[simp] theorem updateDisplayState_spinPosition (s : State) :
    (updateDisplayState s).spinPosition = s.spinPosition := rfl
@[simp] theorem updateDisplayState_lines (s : State) :
    (updateDisplayState s).lines = driveFrame s.lines [displayCtrlCmd s.cfg s.powerOn s.brightness] := rfl
@[simp] theorem updateDisplayState_wire (s : State) :
    (updateDisplayState s).wire = s.wire ++ [[displayCtrlCmd s.cfg s.powerOn s.brightness]] := rfl
@[simp] theorem updateDisplayState_responses (s : State) : (updateDisplayState s).responses = s.responses := rfl
@[simp] theorem updateDisplayState_pending (s : State) : (updateDisplayState s).pending = s.pending := rfl

@[simp] theorem redraw_cfg (s : State) : (redraw s).cfg = s.cfg := rfl
@[simp] theorem redraw_digits (s : State) : (redraw s).digits = s.digits := rfl
@[simp] theorem redraw_colonEnabled (s : State) : (redraw s).colonEnabled = s.colonEnabled := rfl
@[simp] theorem redraw_powerOn (s : State) : (redraw s).powerOn = s.powerOn := rfl
@[simp] theorem redraw_brightness (s : State) : (redraw s).brightness = s.brightness := rfl
@[simp] theorem redraw_spinMode (s : State) : (redraw s).spinMode = s.spinMode := rfl
@[simp] theorem redraw_spinPosition (s : State) : (redraw s).spinPosition = s.spinPosition := rfl
@[simp] theorem redraw_lines (s : State) : (redraw s).lines = driveFrame s.lines (redrawFrame s) := rfl
@[simp] theorem redraw_wire (s : State) : (redraw s).wire = s.wire ++ [redrawFrame s] := rfl
@[simp] theorem redraw_responses (s : State) : (redraw s).responses = s.responses := rfl
@[simp] theorem redraw_pending (s : State) : (redraw s).pending = s.pending := rfl

@[simp] theorem respond_cfg (s : State) (e : Bool) (d : Byte) : (respond s e d).cfg = s.cfg := rfl
@[simp] theorem respond_digits (s : State) (e : Bool) (d : Byte) : (respond s e d).digits = s.digits := rfl
@[simp] theorem respond_colonEnabled (s : State) (e : Bool) (d : Byte) :
    (respond s e d).colonEnabled = s.colonEnabled := rfl
@[simp] theorem respond_powerOn (s : State) (e : Bool) (d : Byte) : (respond s e d).powerOn = s.powerOn := rfl
@[simp] theorem respond_brightness (s : State) (e : Bool) (d : Byte) :
    (respond s e d).brightness = s.brightness := rfl
@[simp] theorem respond_spinMode (s : State) (e : Bool) (d : Byte) : (respond s e d).spinMode = s.spinMode := rfl
@[simp] theorem respond_spinPosition (s : State) (e : Bool) (d : Byte) :
    (respond s e d).spinPosition = s.spinPosition := rfl
@[simp] theorem respond_lines (s : State) (e : Bool) (d : Byte) : (respond s e d).lines = s.lines := rfl
@[simp] theorem respond_wire (s : State) (e : Bool) (d : Byte) : (respond s e d).wire = s.wire := rfl
@[simp] theorem respond_responses (s : State) (e : Bool) (d : Byte) :
    (respond s e d).responses = s.responses ++ [{ err := e, data := d }] := rfl
@[simp] theorem respond_pending (s : State) (e : Bool) (d : Byte) : (respond s e d).pending = s.pending := rfl

@[simp] theorem setColonFlag_cfg (f : Bool) (s : State) : (setColonFlag f s).cfg = s.cfg := rfl
@[simp] theorem setColonFlag_digits (f : Bool) (s : State) : (setColonFlag f s).digits = s.digits := rfl
@[simp] theorem setColonFlag_colonEnabled (f : Bool) (s : State) : (setColonFlag f s).colonEnabled = f := rfl
@[simp] theorem setColonFlag_powerOn (f : Bool) (s : State) : (setColonFlag f s).powerOn = s.powerOn := rfl
@[simp] theorem setColonFlag_brightness (f : Bool) (s : State) : (setColonFlag f s).brightness = s.brightness := rfl
@[simp] theorem setColonFlag_spinMode (f : Bool) (s : State) : (setColonFlag f s).spinMode = s.spinMode := rfl
@[simp] theorem setColonFlag_spinPosition (f : Bool) (s : State) :
    (setColonFlag f s).spinPosition = s.spinPosition := rfl
@[simp] theorem setColonFlag_lines (f : Bool) (s : State) : (setColonFlag f s).lines = s.lines := rfl
@[simp] theorem setColonFlag_wire (f : Bool) (s : State) : (setColonFlag f s).wire = s.wire := rfl
@[simp] theorem setColonFlag_responses (f : Bool) (s : State) : (setColonFlag f s).responses = s.responses := rfl
@[simp] theorem setColonFlag_pending (f : Bool) (s : State) : (setColonFlag f s).pending = s.pending := rfl

@[simp] theorem setPowerFlag_cfg (on : Bool) (s : State) : (setPowerFlag on s).cfg = s.cfg := rfl
@[simp] theorem setPowerFlag_digits (on : Bool) (s : State) : (setPowerFlag on s).digits = s.digits := rfl
@[simp] theorem setPowerFlag_colonEnabled (on : Bool) (s : State) :
    (setPowerFlag on s).colonEnabled = s.colonEnabled := rfl
@[simp] theorem setPowerFlag_powerOn (on : Bool) (s : State) : (setPowerFlag on s).powerOn = on := rfl
@[simp] theorem setPowerFlag_brightness (on : Bool) (s : State) : (setPowerFlag on s).brightness = s.brightness := rfl
@[simp] theorem setPowerFlag_spinMode (on : Bool) (s : State) : (setPowerFlag on s).spinMode = s.spinMode := rfl
@[simp] theorem setPowerFlag_spinPosition (on : Bool) (s : State) :
    (setPowerFlag on s).spinPosition = s.spinPosition := rfl
@[simp] theorem setPowerFlag_lines (on : Bool) (s : State) : (setPowerFlag on s).lines = s.lines := rfl
@[simp] theorem setPowerFlag_wire (on : Bool) (s : State) : (setPowerFlag on s).wire = s.wire := rfl
@[simp] theorem setPowerFlag_responses (on : Bool) (s : State) : (setPowerFlag on s).responses = s.responses := rfl
@[simp] theorem setPowerFlag_pending (on : Bool) (s : State) : (setPowerFlag on s).pending = s.pending := rfl

@[simp] theorem withPending_cfg (s : State) (p : List Code) : (s.withPending p).cfg = s.cfg := rfl
@[simp] theorem withPending_digits (s : State) (p : List Code) : (s.withPending p).digits = s.digits := rfl
@[simp] theorem withPending_colonEnabled (s : State) (p : List Code) : (s.withPending p).colonEnabled = s.colonEnabled := rfl
@[simp] theorem withPending_powerOn (s : State) (p : List Code) : (s.withPending p).powerOn = s.powerOn := rfl
@[simp] theorem withPending_brightness (s : State) (p : List Code) : (s.withPending p).brightness = s.brightness := rfl
@[simp] theorem withPending_spinMode (s : State) (p : List Code) : (s.withPending p).spinMode = s.spinMode := rfl
@[simp] theorem withPending_spinPosition (s : State) (p : List Code) : (s.withPending p).spinPosition = s.spinPosition := rfl
@[simp] theorem withPending_lines (s : State) (p : List Code) : (s.withPending p).lines = s.lines := rfl
@[simp] theorem withPending_wire (s : State) (p : List Code) : (s.withPending p).wire = s.wire := rfl
@[simp] theorem withPending_responses (s : State) (p : List Code) : (s.withPending p).responses = s.responses := rfl
@[simp] theorem withPending_pending (s : State) (p : List Code) : (s.withPending p).pending = p := rfl

@[simp] theorem present_cfg (s : State) (c : Code) : (present s c).cfg = s.cfg := rfl
@[simp] theorem present_digits (s : State) (c : Code) : (present s c).digits = s.digits := rfl
@[simp] theorem present_colonEnabled (s : State) (c : Code) : (present s c).colonEnabled = s.colonEnabled := rfl
@[simp] theorem present_powerOn (s : State) (c : Code) : (present s c).powerOn = s.powerOn := rfl
@[simp] theorem present_brightness (s : State) (c : Code) : (present s c).brightness = s.brightness := rfl
@[simp] theorem present_spinMode (s : State) (c : Code) : (present s c).spinMode = s.spinMode := rfl
@[simp] theorem present_spinPosition (s : State) (c : Code) : (present s c).spinPosition = s.spinPosition := rfl
@[simp] theorem present_lines (s : State) (c : Code) : (present s c).lines = s.lines := rfl
@[simp] theorem present_wire (s : State) (c : Code) : (present s c).wire = s.wire := rfl
@[simp] theorem present_responses (s : State) (c : Code) : (present s c).responses = s.responses := rfl
@[simp] theorem present_pending (s : State) (c : Code) : (present s c).pending = c :: s.pending := rfl

end Sys2Proof.Machine
end

