-- ==== Sys2Proof/Laws/Digits.lean ====
section
/-! SUPPORT. The digit buffer: what a bounded write and the loops over it do, that they write nothing else, and that every one keeps exactly N registers (10_state.md R22, 20_memory.md R52). -/

namespace Sys2Proof.Machine

/-- t is s but for its digits, of which there are as many. -/
structure OnlyDigits (s t : State) : Prop where
  eq : t = { s with digits := t.digits }
  count : t.digits.length = s.digits.length

theorem OnlyDigits.refl (s : State) : OnlyDigits s s := ⟨rfl, rfl⟩

theorem OnlyDigits.trans {s t u : State} (h : OnlyDigits s t) (k : OnlyDigits t u) : OnlyDigits s u :=
  ⟨by rw [k.eq, h.eq], by rw [k.count, h.count]⟩

theorem OnlyDigits.cfg {s t : State} (h : OnlyDigits s t) : t.cfg = s.cfg := by rw [h.eq]

theorem memWrite_onlyDigits (s : State) (i : Nat) (v : Byte) : OnlyDigits s (memWrite s i v) := by
  refine ⟨rfl, ?_⟩
  simp only [memWrite_digits]
  split <;> simp

/-- The read after a bounded write: the value at a register of the buffer, everything else as before. -/
theorem memRead_memWrite (s : State) (i j : Nat) (v : Byte) :
    memRead (memWrite s i v) j =
      if i = j ∧ i < s.cfg.n ∧ i < s.digits.length then some v else memRead s j := by
  simp only [memRead, memWrite_digits]
  by_cases hn : i < s.cfg.n
  · simp only [hn, if_true, true_and]
    rw [List.getElem?_set]
    by_cases hij : i = j
    · subst hij
      by_cases hl : i < s.digits.length <;> simp [hl]
    · simp [hij]
  · simp [hn]

theorem memWrite_out_of_range (s : State) (i : Nat) (v : Byte) (h : s.cfg.n ≤ i) : memWrite s i v = s := by
  simp [memWrite, Nat.not_lt.mpr h]

/-- A loop of writes writes nothing but digits. -/
theorem foldl_onlyDigits {α : Type} (g : State → α → State) (hg : ∀ t a, OnlyDigits t (g t a)) (l : List α)
    (s : State) : OnlyDigits s (l.foldl g s) := by
  induction l generalizing s with
  | nil => exact .refl s
  | cons a l ih => exact (hg s a).trans (ih (g s a))

theorem clearDigits_onlyDigits (s : State) : OnlyDigits s (clearDigits s) :=
  foldl_onlyDigits _ (fun t i => memWrite_onlyDigits t i 0x00) _ s

theorem writeSpinFrame_onlyDigits (p : Nat) (s : State) : OnlyDigits s (writeSpinFrame p s) :=
  foldl_onlyDigits _ (fun t j => memWrite_onlyDigits t j (spinByte t.cfg p j)) _ s

theorem writeValue_onlyDigits (v : Nat) (z : Bool) (k : Nat) (seen : Bool) (s : State) :
    OnlyDigits s (writeValue v z k seen s) := by
  induction k generalizing seen s with
  | zero => exact .refl s
  | succ k ih =>
    simp only [writeValue]
    split
    · exact (memWrite_onlyDigits ..).trans (ih ..)
    · exact (memWrite_onlyDigits ..).trans (ih ..)

/-- Writes over the indices below k, one value each: each register below k holds its value after. -/
theorem memRead_foldl_range (g : Nat → Byte) (k : Nat) (s : State) (j : Nat) :
    memRead ((List.range k).foldl (fun t i => memWrite t i (g i)) s) j =
      if j < k ∧ j < s.cfg.n ∧ j < s.digits.length then some (g j) else memRead s j := by
  induction k with
  | zero => simp
  | succ k ih =>
    have h := foldl_onlyDigits (fun t i => memWrite t i (g i)) (fun t i => memWrite_onlyDigits t i (g i))
      (List.range k) s
    rw [List.range_succ, List.foldl_append]
    simp only [List.foldl_cons, List.foldl_nil, memRead_memWrite, ih, h.cfg, h.count]
    by_cases hjk : k = j
    · subst hjk
      by_cases h2 : k < s.cfg.n ∧ k < s.digits.length <;> simp [h2]
    · have : (j < k + 1) = (j < k) := by simp; omega
      simp [hjk, this]

theorem memRead_clearDigits (s : State) (j : Nat) :
    memRead (clearDigits s) j = if j < s.cfg.n ∧ j < s.digits.length then some 0x00 else memRead s j := by
  rw [clearDigits, memRead_foldl_range]
  by_cases h : j < s.cfg.n ∧ j < s.digits.length <;> simp [h]

/-- With exactly N registers, the cleared buffer is N zero bytes (40_wire.md R119). -/
theorem clearDigits_digits (s : State) (h : s.digits.length = s.cfg.n) :
    (clearDigits s).digits = List.replicate s.cfg.n 0x00 := by
  apply List.ext_getElem?
  intro j
  have := memRead_clearDigits s j
  simp only [memRead] at this
  rw [this, List.getElem?_replicate, h]
  by_cases hj : j < s.cfg.n
  · simp [hj]
  · simp [hj, h]

theorem memRead_writeSpinFrame (p : Nat) (s : State) (j : Nat) :
    memRead (writeSpinFrame p s) j =
      if j < fullSpinDigits ∧ j < s.cfg.n ∧ j < s.digits.length then some (spinByte s.cfg p j) else memRead s j := by
  have key : ∀ (k : Nat), (List.range k).foldl (fun t j => memWrite t j (spinByte t.cfg p j)) s =
      (List.range k).foldl (fun t j => memWrite t j (spinByte s.cfg p j)) s := by
    intro k
    induction k with
    | zero => rfl
    | succ k ih =>
      rw [List.range_succ, List.foldl_append, List.foldl_append, ← ih]
      simp only [List.foldl_cons, List.foldl_nil]
      rw [(foldl_onlyDigits _ (fun t j => memWrite_onlyDigits t j (spinByte t.cfg p j)) (List.range k) s).cfg]
  rw [writeSpinFrame, key, memRead_foldl_range]

end Sys2Proof.Machine
end

