-- ==== Sys2Proof/Laws/Encoding.lean ====
section
/-! SUPPORT. The request word: its bits, its fields, and that it is made of its fields (30_encoding.md R70). -/

namespace Sys2Proof

/-- Every bit of a request word, by the fields R70 draws. -/
theorem getLsbD_requestWord (op : BitVec 4) (f : Bool) (a : Byte) (b : BitVec 32) (i : Nat) :
    (requestWord op f a b).getLsbD i =
      if i < 32 then b.getLsbD i
      else if i < 40 then a.getLsbD (i - 32)
      else if i < 43 then false
      else if i < 44 then f
      else op.getLsbD (i - 44) := by
  change (op ++ BitVec.ofBool f ++ 0#3 ++ a ++ b : BitVec (4 + 1 + 3 + 8 + 32)).getLsbD i = _
  simp only [BitVec.getLsbD_append, BitVec.getLsbD_ofBool, BitVec.getLsbD_zero]
  by_cases h1 : i < 32
  · simp [h1]
  by_cases h2 : i < 40
  · simp [h1, h2, show i - 32 < 8 by omega]
  by_cases h3 : i < 43
  · simp [h1, h2, h3, show ¬ i - 32 < 8 by omega, show i - 32 - 8 < 3 by omega]
  by_cases h4 : i < 44
  · obtain rfl : i = 43 := by omega
    simp
  · simp only [h1, h2, h3, h4, if_false, show ¬ i - 32 < 8 by omega, show ¬ i - 32 - 8 < 3 by omega,
      show ¬ i - 32 - 8 - 3 < 1 by omega, show i - 32 - 8 - 3 - 1 = i - 44 by omega]

@[simp] theorem opField_requestWord (op : BitVec 4) (f : Bool) (a : Byte) (b : BitVec 32) :
    opField (requestWord op f a b) = op := by
  apply BitVec.eq_of_getLsbD_eq
  intro i hi
  rw [opField, BitVec.getLsbD_extractLsb', getLsbD_requestWord]
  simp [hi, show ¬ 44 + i < 32 by omega, show ¬ 44 + i < 40 by omega, show ¬ 44 + i < 43 by omega]

@[simp] theorem fField_requestWord (op : BitVec 4) (f : Bool) (a : Byte) (b : BitVec 32) :
    fField (requestWord op f a b) = f := by
  simp [fField, getLsbD_requestWord, -BitVec.getLsbD_eq_getElem]

@[simp] theorem rsvField_requestWord (op : BitVec 4) (f : Bool) (a : Byte) (b : BitVec 32) :
    rsvField (requestWord op f a b) = 0 := by
  apply BitVec.eq_of_getLsbD_eq
  intro i hi
  rw [rsvField, BitVec.getLsbD_extractLsb', getLsbD_requestWord]
  simp [hi, show ¬ 40 + i < 32 by omega, show 40 + i < 43 by omega]

@[simp] theorem aField_requestWord (op : BitVec 4) (f : Bool) (a : Byte) (b : BitVec 32) :
    aField (requestWord op f a b) = a := by
  apply BitVec.eq_of_getLsbD_eq
  intro i hi
  rw [aField, BitVec.getLsbD_extractLsb', getLsbD_requestWord]
  simp [hi, show ¬ 32 + i < 32 by omega, show 32 + i < 40 by omega]

@[simp] theorem bField_requestWord (op : BitVec 4) (f : Bool) (a : Byte) (b : BitVec 32) :
    bField (requestWord op f a b) = b := by
  apply BitVec.eq_of_getLsbD_eq
  intro i hi
  rw [bField, BitVec.getLsbD_extractLsb', getLsbD_requestWord]
  simp [hi]

/-- A word with RSV = 0 is the word of its fields. -/
theorem requestWord_fields (w : ReqWord) (h : rsvField w = 0) :
    requestWord (opField w) (fField w) (aField w) (bField w) = w := by
  have hr : ∀ k, k < 3 → w.getLsbD (40 + k) = false := by
    intro k hk
    have := congrArg (fun v => v.getLsbD k) h
    simpa only [rsvField, BitVec.getLsbD_extractLsb', hk, decide_true, Bool.true_and, BitVec.ofNat_eq_ofNat,
      BitVec.getLsbD_zero] using this
  apply BitVec.eq_of_getLsbD_eq
  intro i hi
  rw [getLsbD_requestWord]
  simp only [opField, fField, aField, bField, BitVec.getLsbD_extractLsb']
  split
  · simp [*]
  split
  · simp [show i - 32 < 8 by omega, show 32 + (i - 32) = i by omega]
  split
  · have := hr (i - 40) (by omega)
    rw [show 40 + (i - 40) = i by omega] at this
    exact this.symm
  split
  · obtain rfl : i = 43 := by omega
    rfl
  · simp [show i - 44 < 4 by omega, show 44 + (i - 44) = i by omega]

theorem toNat_append_eq {n m : Nat} (x : BitVec n) (y : BitVec m) : (x ++ y).toNat = x.toNat * 2 ^ m + y.toNat := by
  rw [BitVec.toNat_append, ← Nat.shiftLeft_add_eq_or_of_lt y.isLt, Nat.shiftLeft_eq]

/-- A request word as a number (R70). -/
theorem toNat_requestWord (op : BitVec 4) (f : Bool) (a : Byte) (b : BitVec 32) :
    (requestWord op f a b).toNat = op.toNat * 2 ^ 44 + f.toNat * 2 ^ 43 + a.toNat * 2 ^ 32 + b.toNat := by
  change (op ++ BitVec.ofBool f ++ 0#3 ++ a ++ b : BitVec (4 + 1 + 3 + 8 + 32)).toNat = _
  simp only [toNat_append_eq, BitVec.toNat_ofBool, BitVec.toNat_ofNat]
  omega

end Sys2Proof
end

