-- ==== Sys2Proof/Laws/Frames.lean ====
section
/-! SUPPORT. The frame transmitter: the lines after a frame, and the shape and the bytes of a redraw frame (40_wire.md R111, R117). -/

namespace Sys2Proof.Machine

theorem foldl_byteEvents (l : Lines) (b : Byte) :
    (byteEvents b).foldl driveLine l = { l with clk := false, dio := b.getLsbD 7 } := by
  simp [byteEvents, List.range_succ, driveLine]

/-- The lines after the bytes of a frame: CLK low and DIO the last bit sent, if there is a byte. -/
theorem foldl_flatMap_byteEvents (l : Lines) (f : Frame) :
    (f.flatMap byteEvents).foldl driveLine l =
      match f.getLast? with
      | some b => { l with clk := false, dio := b.getLsbD 7 }
      | none => l := by
  induction f generalizing l with
  | nil => rfl
  | cons b f ih =>
    rw [List.flatMap_cons, List.foldl_append, foldl_byteEvents, ih]
    cases f with
    | nil => rfl
    | cons c f => simp [List.getLast?_cons]

/-- The lines after a frame: STB high, and CLK and DIO as its last byte left them. -/
theorem driveFrame_eq (l : Lines) (f : Frame) :
    driveFrame l f =
      match f.getLast? with
      | some b => { stb := true, clk := false, dio := b.getLsbD 7 }
      | none => { l with stb := true } := by
  rw [driveFrame, frameEvents, List.foldl_cons, List.foldl_append, foldl_flatMap_byteEvents]
  cases f.getLast? <;> rfl

theorem redrawBytes_length (c : Config) (colon : Bool) (i : Nat) (ds : List Byte) :
    (redrawBytes c colon i ds).length = 2 * ds.length := by
  induction ds generalizing i with
  | nil => rfl
  | cons d ds ih => simp [redrawBytes, ih]; omega

theorem redrawFrame_length (s : State) : (redrawFrame s).length = 2 * s.digits.length :=
  redrawBytes_length ..

theorem redrawBytes_addr (c : Config) (colon : Bool) (i : Nat) (ds : List Byte) (j : Nat) (h : j < ds.length) :
    (redrawBytes c colon i ds)[2 * j]? = some (addrCmd c (i + j)) := by
  induction ds generalizing i j with
  | nil => simp at h
  | cons d ds ih =>
    cases j with
    | zero => simp [redrawBytes]
    | succ j =>
      have := ih (i + 1) j (by simpa using h)
      rw [show i + (j + 1) = i + 1 + j by omega, ← this]
      simp [redrawBytes, Nat.mul_add]

theorem redrawBytes_data (c : Config) (colon : Bool) (i : Nat) (ds : List Byte) (j : Nat) (d : Byte)
    (h : ds[j]? = some d) :
    (redrawBytes c colon i ds)[2 * j + 1]? = some (d ||| colonOverlay c colon (i + j)) := by
  induction ds generalizing i j with
  | nil => simp at h
  | cons e ds ih =>
    cases j with
    | zero =>
      simp at h
      simp [redrawBytes, h]
    | succ j =>
      have := ih (i + 1) j (by simpa using h)
      rw [show i + (j + 1) = i + 1 + j by omega, ← this]
      simp [redrawBytes, Nat.mul_add]

end Sys2Proof.Machine
end

