-- ==== Sys2Proof/Laws/Exec.lean ====
section
/-! SUPPORT. What an instruction can do, said once: a next state that emits some frames and delivers at most one response, or the refusal of a wire command the block never sends; that no instruction looks at what is presented next; and the cases of a step. -/

namespace Sys2Proof.Machine

/-- What exec can do. Every request answers a next state and delivers one response with ERR = 0, whose DATA is
0x00 but for GETBITS; a wire command may be refused; every instruction keeps the number of digit registers. -/
theorem exec_next_or_refused (i : Instr) (s : State) :
    (∃ t fs rs, exec i s = .next t ∧ Emits s t fs rs ∧ t.digits.length = s.digits.length ∧
      (i.isRequest = true → ∃ d, rs = [{ err := false, data := d }] ∧ ((∀ v, i ≠ .getBits v) → d = 0x00) ∧
        ∀ v, i = .getBits v → d = font4 s.cfg v.toNat)) ∨
    (i.isRequest = false ∧ ∃ r, exec i s = .refused r) := by
  have keep : Emits s (respond s false 0x00) [] [⟨false, 0x00⟩] := ⟨rfl, (List.append_nil _).symm, rfl, rfl, rfl⟩
  cases i with
  | reset =>
    have hc := clearDigits_onlyDigits s
    refine .inl ⟨_, [[layoutCmd s.cfg], [dataSetCmd s.cfg],
      [displayCtrlCmd s.cfg s.powerOn s.cfg.brightnessDefault], redrawFrame (baseline s)], [⟨false, 0⟩], rfl, ?_, ?_,
      by simp⟩
    · constructor <;> simp [linesAfter, redrawFrame, baseline] <;> rw [hc.eq]
    · simp [baseline, hc.count]
  | enable =>
    exact .inl ⟨_, [[displayCtrlCmd s.cfg true s.brightness]], [⟨false, 0⟩], rfl, ⟨rfl, rfl, rfl, rfl, rfl⟩, rfl,
      by simp⟩
  | disable =>
    exact .inl ⟨_, [[displayCtrlCmd s.cfg false s.brightness]], [⟨false, 0⟩], rfl, ⟨rfl, rfl, rfl, rfl, rfl⟩, rfl,
      by simp⟩
  | setBrt a =>
    exact .inl ⟨_, [[displayCtrlCmd s.cfg s.powerOn (brightnessOf a)]], [⟨false, 0⟩], rfl,
      ⟨rfl, rfl, rfl, rfl, rfl⟩, rfl, by simp⟩
  | setCol f =>
    refine .inl ⟨_, if f = s.colonEnabled then [] else [redrawFrame (setColonFlag f s)], [⟨false, 0⟩], rfl, ?_, ?_,
      by simp⟩
    · by_cases h : f = s.colonEnabled <;> constructor <;> simp [h, changeColon, colonChanges, linesAfter, redrawFrame]
    · by_cases h : f = s.colonEnabled <;> simp [changeColon, colonChanges, h]
  | tglCol =>
    refine .inl ⟨_, [redrawFrame (setColonFlag (!s.colonEnabled) s)], [⟨false, 0⟩], rfl, ?_, ?_, by simp⟩
    · constructor <;> simp [changeColon, colonChanges, linesAfter, redrawFrame]
    · simp [changeColon, colonChanges]
  | setDig a v f =>
    have h := (memWrite_onlyDigits s a.toNat (font4 s.cfg v.toNat)).count
    refine .inl ⟨_, if f then [redrawFrame (memWrite s a.toNat (font4 s.cfg v.toNat))] else [], [⟨false, 0⟩], rfl,
      ?_, ?_, by simp⟩
    · cases f <;> constructor <;> simp [linesAfter]
    · cases f <;> exact h
  | setSeg a m =>
    exact .inl ⟨_, [], [⟨false, 0⟩], rfl, ⟨rfl, (List.append_nil _).symm, rfl, rfl, rfl⟩,
      (memWrite_onlyDigits s a.toNat m).count, by simp⟩
  | setVal v f =>
    have h := writeValue_onlyDigits v.toNat f s.cfg.n false s
    refine .inl ⟨_, [redrawFrame (writeValue v.toNat f s.cfg.n false s)], [⟨false, 0⟩], rfl, ?_, h.count, by simp⟩
    constructor <;> simp [linesAfter] <;> rw [h.eq]
  | setSpin m =>
    exact .inl ⟨_, [], [⟨false, 0⟩], rfl, ⟨rfl, (List.append_nil _).symm, rfl, rfl, rfl⟩, rfl, by simp⟩
  | spin =>
    have h := writeSpinFrame_onlyDigits s.spinPosition.toNat s
    left
    cases hm : s.spinMode with
    | none => exact ⟨respond s false 0, [], [⟨false, 0⟩], by simp [exec, execSpin, hm, answerOk], keep, rfl, by simp⟩
    | singleDigit =>
      exact ⟨respond (spinSingle s) false 0, [redrawFrame (spinSingle s)], [⟨false, 0⟩],
        by simp [exec, execSpin, hm, answerOk], ⟨rfl, rfl, rfl, rfl, rfl⟩, (memWrite_onlyDigits s 0 _).count, by simp⟩
    | fullDisplay =>
      refine ⟨respond (spinFull s) false 0, [redrawFrame (spinFull s)], [⟨false, 0⟩],
        by simp [exec, execSpin, hm, answerOk], ?_, h.count, by simp⟩
      constructor <;> simp [linesAfter, spinFull, redrawFrame] <;> rw [h.eq]
  | redraw => exact .inl ⟨_, [redrawFrame s], [⟨false, 0⟩], rfl, ⟨rfl, rfl, rfl, rfl, rfl⟩, rfl, by simp⟩
  | getBits v =>
    exact .inl ⟨_, [], [⟨false, font4 s.cfg v.toNat⟩], rfl, ⟨rfl, (List.append_nil _).symm, rfl, rfl, rfl⟩, rfl,
      by simp⟩
  | layoutSelect code =>
    by_cases h : sendsLayout s.cfg code = true
    · exact .inl ⟨emit s [layoutCmd s.cfg], [[layoutCmd s.cfg]], [], by simp [exec, execLayoutSelect, h],
        ⟨rfl, rfl, rfl, (List.append_nil _).symm, rfl⟩, rfl, by simp [Instr.isRequest]⟩
    · exact .inr ⟨rfl, _, by simp only [exec, execLayoutSelect, h]; rfl⟩
  | dataSet =>
    exact .inl ⟨_, [[dataSetCmd s.cfg]], [], rfl, ⟨rfl, rfl, rfl, (List.append_nil _).symm, rfl⟩, rfl,
      by simp [Instr.isRequest]⟩
  | displayCtrl on b =>
    exact .inl ⟨_, [[displayCtrlCmd s.cfg on b]], [], rfl, ⟨rfl, rfl, rfl, (List.append_nil _).symm, rfl⟩, rfl,
      by simp [Instr.isRequest]⟩
  | addr sl =>
    by_cases h : sendsAddr s.cfg sl = true
    · exact .inl ⟨redraw s, [redrawFrame s], [], by simp [exec, execAddr, h],
        ⟨rfl, rfl, rfl, (List.append_nil _).symm, rfl⟩, rfl, by simp [Instr.isRequest]⟩
    · exact .inr ⟨rfl, _, by simp only [exec, execAddr, h]; rfl⟩

/-- An outcome with another list of codes presented. -/
def presenting (p : List Code) : Host.Outcome State Fault Refusal → Host.Outcome State Fault Refusal
  | .next s => .next (s.withPending p)
  | .fault r => .fault r
  | .refused r => .refused r

theorem memWrite_withPending (s : State) (p : List Code) (i : Nat) (v : Byte) :
    memWrite (s.withPending p) i v = (memWrite s i v).withPending p := rfl

theorem emit_withPending (s : State) (p : List Code) (f : Frame) :
    emit (s.withPending p) f = (emit s f).withPending p := rfl

theorem updateDisplayState_withPending (s : State) (p : List Code) :
    updateDisplayState (s.withPending p) = (updateDisplayState s).withPending p := rfl

theorem redraw_withPending (s : State) (p : List Code) : redraw (s.withPending p) = (redraw s).withPending p := rfl

theorem setColonFlag_withPending (f : Bool) (s : State) (p : List Code) :
    setColonFlag f (s.withPending p) = (setColonFlag f s).withPending p := rfl

theorem answerOk_withPending (s : State) (p : List Code) : answerOk (s.withPending p) = presenting p (answerOk s) := rfl

theorem foldl_withPending {α : Type} (g : State → α → State)
    (hg : ∀ (s : State) p a, g (s.withPending p) a = (g s a).withPending p) (l : List α) (s : State) (p : List Code) :
    l.foldl g (s.withPending p) = (l.foldl g s).withPending p := by
  induction l generalizing s with
  | nil => rfl
  | cons a l ih => rw [List.foldl_cons, hg, ih, List.foldl_cons]

theorem writeValue_withPending (v : Nat) (z : Bool) (k : Nat) (seen : Bool) (s : State) (p : List Code) :
    writeValue v z k seen (s.withPending p) = (writeValue v z k seen s).withPending p := by
  induction k generalizing seen s with
  | zero => rfl
  | succ k ih =>
    unfold writeValue
    simp only [memWrite_withPending, withPending_cfg, ih]
    exact (apply_ite (fun t : State => t.withPending p) _ _ _).symm

theorem changeColon_withPending (f : Bool) (s : State) (p : List Code) :
    changeColon f (s.withPending p) = (changeColon f s).withPending p := by
  by_cases h : f = s.colonEnabled <;>
    simp [changeColon, colonChanges, h, setColonFlag_withPending, redraw_withPending]

/-- No instruction reads or writes what is presented next. -/
theorem exec_withPending (i : Instr) (s : State) (p : List Code) :
    exec i (s.withPending p) = presenting p (exec i s) := by
  cases i with
  | reset =>
    have hc : clearDigits (s.withPending p) = (clearDigits s).withPending p := by
      unfold clearDigits
      exact foldl_withPending (fun t i => memWrite t i 0x00) (fun _ _ _ => rfl) (List.range s.cfg.n) s p
    have hb : baseline (s.withPending p) = (baseline s).withPending p := by
      unfold baseline
      rw [hc]
      rfl
    simp only [exec, execReset, hb, emit_withPending, updateDisplayState_withPending, redraw_withPending,
      answerOk_withPending, withPending_cfg]
  | enable => rfl
  | disable => rfl
  | setBrt a => rfl
  | setCol f => simp only [exec, execSetCol, changeColon_withPending, answerOk_withPending]
  | tglCol =>
    simp only [exec, execTglCol, withPending_colonEnabled, changeColon_withPending, answerOk_withPending]
  | setDig a v f => cases f <;> rfl
  | setSeg a m => rfl
  | setVal v f =>
    simp only [exec, execSetVal, writeValue_withPending, withPending_cfg, redraw_withPending, answerOk_withPending]
  | setSpin m => rfl
  | spin =>
    have hw : writeSpinFrame s.spinPosition.toNat (s.withPending p) =
        (writeSpinFrame s.spinPosition.toNat s).withPending p := by
      unfold writeSpinFrame
      exact foldl_withPending (fun t j => memWrite t j (spinByte t.cfg _ j)) (fun _ _ _ => rfl) _ s p
    simp only [exec, execSpin, withPending_spinMode]
    cases s.spinMode
    · rfl
    · rfl
    · simp only [spinFull, withPending_spinPosition, hw]
      rfl
  | redraw => rfl
  | getBits v => rfl
  | layoutSelect code =>
    simp only [exec, execLayoutSelect, withPending_cfg, emit_withPending]
    by_cases h : sendsLayout s.cfg code = true <;> simp [h, presenting]
  | dataSet => rfl
  | displayCtrl on b => rfl
  | addr sl =>
    simp only [exec, execAddr, withPending_cfg, redraw_withPending]
    by_cases h : sendsAddr s.cfg sl = true <;> simp [h, presenting]

/-- What a step that answers a next state did: nothing was presented, or it ran the presented instruction, or it
answered an illegal word. -/
theorem step_next_cases {s t : State} (h : step s = .next t) :
    (s.pending = [] ∧ t = s) ∨
    (∃ code rest i, s.pending = code :: rest ∧ decode code = .instr i ∧ exec i (s.withPending rest) = .next t) ∨
    ∃ code rest r, s.pending = code :: rest ∧ decode code = .illegal r ∧
      t = illegalRequest r (s.withPending rest) := by
  cases hp : s.pending with
  | nil =>
    simp only [step, fetch, hp] at h
    cases h
    exact .inl ⟨rfl, rfl⟩
  | cons code rest =>
    cases hd : decode code with
    | instr i =>
      simp only [step, fetch, hp, hd] at h
      exact .inr (.inl ⟨code, rest, i, rfl, hd, h⟩)
    | illegal r =>
      simp only [step, fetch, hp, hd] at h
      cases h
      exact .inr (.inr ⟨code, rest, r, rfl, hd, rfl⟩)
    | unknownWire b =>
      simp only [step, fetch, hp, hd] at h
      cases h

/-- The lines after a list of frames are the lines after their events. -/
theorem linesAfter_eq_foldl (l : Lines) (fs : List Frame) :
    linesAfter l fs = (fs.flatMap frameEvents).foldl driveLine l := by
  induction fs generalizing l with
  | nil => rfl
  | cons f fs ih =>
    rw [List.flatMap_cons, List.foldl_append]
    exact ih (driveFrame l f)

end Sys2Proof.Machine
end

