-- ==== Sys2Proof/Laws/PerInstr.lean ====
section
/-! SUPPORT. Statements made per instruction, about the instruction as syntax. -/

/-- OpcodeRow: an instruction's code meets the match and mask of its row of spec/opcode_table.json. -/
def Sys2Proof.Laws.OpcodeRow.row : Sys2Proof.Instr → Sys2Proof.Code × Sys2Proof.Code
  | .reset => (.request 0x000000000000, .request 0xFFFFFFFFFFFF)
  | .enable => (.request 0x100000000000, .request 0xFFFFFFFFFFFF)
  | .disable => (.request 0x200000000000, .request 0xFFFFFFFFFFFF)
  | .setBrt _ => (.request 0x300000000000, .request 0xFF00FFFFFFFF)
  | .setCol _ => (.request 0x400000000000, .request 0xF7FFFFFFFFFF)
  | .tglCol => (.request 0x500000000000, .request 0xFFFFFFFFFFFF)
  | .setDig _ _ _ => (.request 0x600000000000, .request 0xF70000000000)
  | .setSeg _ _ => (.request 0x700000000000, .request 0xFF00FFFFFF00)
  | .setVal _ _ => (.request 0x800000000000, .request 0xF7FF00000000)
  | .setSpin _ => (.request 0x900000000000, .request 0xFFFCFFFFFFFF)
  | .spin => (.request 0xA00000000000, .request 0xFFFFFFFFFFFF)
  | .redraw => (.request 0xB00000000000, .request 0xFFFFFFFFFFFF)
  | .getBits _ => (.request 0xC00000000000, .request 0xFFFF00000000)
  | .layoutSelect _ => (.wire 0x00, .wire 0xFC)
  | .dataSet => (.wire 0x40, .wire 0xFF)
  | .displayCtrl _ _ => (.wire 0x80, .wire 0xF0)
  | .addr _ => (.wire 0xC0, .wire 0xF0)

/-- A code agrees with a match under a mask of the same format. -/
def Sys2Proof.Laws.OpcodeRow.agrees : Sys2Proof.Code → Sys2Proof.Code × Sys2Proof.Code → Bool
  | .request w, (.request p, .request m) => w &&& m == p
  | .wire b, (.wire p, .wire m) => b &&& m == p
  | _, _ => false

/-- The statement of the family. -/
abbrev Sys2Proof.Laws.OpcodeRow.Statement (i : Sys2Proof.Instr) : Prop :=
  Sys2Proof.Laws.OpcodeRow.agrees (Sys2Proof.encode i) (Sys2Proof.Laws.OpcodeRow.row i) = true

namespace Sys2Proof.Laws.OpcodeRow

theorem fields_and (op mo : BitVec 4) (f mf : Bool) (a ma : Byte) (b mb : BitVec 32) :
    (op ++ BitVec.ofBool f ++ 0#3 ++ a ++ b) &&& (mo ++ BitVec.ofBool mf ++ 7#3 ++ ma ++ mb) =
      (op &&& mo) ++ BitVec.ofBool (f && mf) ++ 0#3 ++ (a &&& ma) ++ (b &&& mb) := by
  have hf : BitVec.ofBool f &&& BitVec.ofBool mf = BitVec.ofBool (f && mf) := by
    cases f <;> cases mf <;> rfl
  simp only [BitVec.and_append, hf]
  simp

/-- A request word is masked field by field (30_encoding.md R70). -/
theorem requestWord_and (op mo : BitVec 4) (f mf : Bool) (a ma : Byte) (b mb : BitVec 32) :
    requestWord op f a b &&& (mo ++ BitVec.ofBool mf ++ 7#3 ++ ma ++ mb : BitVec 48) =
      requestWord (op &&& mo) (f && mf) (a &&& ma) (b &&& mb) :=
  fields_and op mo f mf a ma b mb

/-- A request row is met when the mask's fields leave the match's. -/
theorem agrees_request (op : BitVec 4) (f mf : Bool) (a ma : Byte) (b mb : BitVec 32) (p m : ReqWord)
    (hm : (0xF#4 ++ BitVec.ofBool mf ++ 7#3 ++ ma ++ mb : BitVec 48) = m)
    (hp : requestWord (op &&& 0xF) (f && mf) (a &&& ma) (b &&& mb) = p) :
    agrees (.request (requestWord op f a b)) (.request p, .request m) = true := by
  rw [agrees, beq_iff_eq, ← hm, ← hp]
  exact requestWord_and op 0xF f mf a ma b mb

theorem low_byte_masked (m : Byte) : m.setWidth 32 &&& 0xFFFFFF00 = 0 := by
  have h : m.setWidth 32 = 0#24 ++ m := by
    apply BitVec.eq_of_getLsbD_eq
    intro i hi
    simp only [BitVec.getLsbD_setWidth, BitVec.getLsbD_append, hi, decide_true, Bool.true_and]
    by_cases h8 : i < 8
    · simp [h8]
    · simp [h8, BitVec.getLsbD_of_ge m i (by omega)]
  rw [h, show (0xFFFFFF00 : BitVec 32) = 0xFFFFFF#24 ++ 0#8 by decide, BitVec.and_append]
  simp

theorem reset : Statement .reset := by decide
theorem enable : Statement .enable := by decide
theorem disable : Statement .disable := by decide
theorem setBrt (value : Byte) : Statement (.setBrt value) :=
  agrees_request 0x3 false true value 0 0 0xFFFFFFFF _ _ (by decide) (by simp; decide)
theorem setCol (state : Bool) : Statement (.setCol state) := by cases state <;> decide
theorem tglCol : Statement .tglCol := by decide
theorem setDig (index : Byte) (value : BitVec 32) (f : Bool) : Statement (.setDig index value f) :=
  agrees_request 0x6 f false index 0 value 0 _ _ (by decide) (by simp; decide)
theorem setSeg (index : Byte) (bitmap : Byte) : Statement (.setSeg index bitmap) :=
  agrees_request 0x7 false true index 0 (bitmap.setWidth 32) 0xFFFFFF00 _ _ (by decide)
    (by rw [low_byte_masked]; simp; decide)
theorem setVal (value : BitVec 32) (f : Bool) : Statement (.setVal value f) :=
  agrees_request 0x8 f false 0 0xFF value 0 _ _ (by decide) (by simp; decide)
theorem setSpin (mode : SpinMode) : Statement (.setSpin mode) := by cases mode <;> decide
theorem spin : Statement .spin := by decide
theorem redraw : Statement .redraw := by decide
theorem getBits (value : BitVec 32) : Statement (.getBits value) :=
  agrees_request 0xC false true 0 0xFF value 0 _ _ (by decide) (by simp; decide)
theorem layoutSelect (code : BitVec 2) : Statement (.layoutSelect code) :=
  (by decide : ∀ c : BitVec 2, Statement (.layoutSelect c)) code
theorem dataSet : Statement .dataSet := by decide
theorem displayCtrl (on : Bool) (b : BitVec 3) : Statement (.displayCtrl on b) :=
  (by decide : ∀ on b, Statement (.displayCtrl on b)) on b
theorem addr (sl : BitVec 4) : Statement (.addr sl) :=
  (by decide : ∀ sl, Statement (.addr sl)) sl

end Sys2Proof.Laws.OpcodeRow
end

