-- ==== Sys2Proof/Tests/Slice0.lean ====
section
/-! SUPPORT. The model's own tests, with the expected values of 95_test_vectors.md or worked out by hand from the rule a comment names, and a witness for the hypotheses of every statement that has any. -/

namespace Sys2Proof.Tests

open Sys2Proof Sys2Proof.Machine

/-! ### The states the tests start from -/

/-- The reference configuration with another digit count and layout. -/
def configOf (n : Nat) (l : Layout) : Config := { referenceConfig with n := n, layout := l }

/-- A state right after construction, but for its digits and its colon. -/
def showing (n : Nat) (ds : List Byte) (colon : Bool) : State :=
  { State.powerUp (configOf n .layout7x11) with digits := ds, colonEnabled := colon }

/-- A state after construction, but for its spinner. -/
def spinning (n : Nat) (m : SpinMode) (p : BitVec 4) : State :=
  { State.powerUp (configOf n .layout7x11) with spinMode := m, spinPosition := p }

/-- The frames an instruction adds and the digits it leaves. -/
def sent (i : Instr) (s : State) : Option (List Frame × List Byte) :=
  (nextState? (exec i s)).map fun t => (t.wire.drop s.wire.length, t.digits)

/-- The registers an instruction leaves, the digits apart. -/
def registers (i : Instr) (s : State) : Option (Bool × Bool × BitVec 3 × SpinMode × BitVec 4) :=
  (nextState? (exec i s)).map fun t => (t.colonEnabled, t.powerOn, t.brightness, t.spinMode, t.spinPosition)

/-- The responses in the state a step leads to. -/
def answers (s : State) : Option (List Response) := (nextState? (step s)).map (·.responses)

/-! ### Well-formedness: each check refuses an ill-formed term -/

/-- R82: a layout code other than the two. -/
theorem test_wf_layout_code : WellFormed referenceConfig (.layoutSelect 0) = false := by decide
/-- R112: the code of the other layout. -/
theorem test_wf_other_layout : WellFormed referenceConfig (.layoutSelect 2) = false := by decide
/-- R82: an odd slot, and a slot of 2N or more. -/
theorem test_wf_slot : WellFormed referenceConfig (.addr 1) = false ∧ WellFormed referenceConfig (.addr 8) = false := by
  decide
/-- R81: the well-formed wire commands of the reference block. -/
theorem test_wf_accepts :
    WellFormed referenceConfig (.layoutSelect 3) = true ∧ WellFormed referenceConfig (.addr 6) = true ∧
    WellFormed referenceConfig (.setDig 255 0xFFFFFFFF true) = true := by decide

/-! ### Decoding: words of 95_test_vectors.md L2.1, bytes of 30_encoding.md R81 -/

theorem test_decode_reset : decode (.request 0x000000000000) = .instr .reset := by decide
theorem test_decode_enable : decode (.request 0x100000000000) = .instr .enable := by decide
theorem test_decode_disable : decode (.request 0x200000000000) = .instr .disable := by decide
theorem test_decode_setBrt : decode (.request 0x30FF00000000) = .instr (.setBrt 255) := by decide
theorem test_decode_setCol : decode (.request 0x480000000000) = .instr (.setCol true) := by decide
theorem test_decode_tglCol : decode (.request 0x500000000000) = .instr .tglCol := by decide
theorem test_decode_setDig : decode (.request 0x680300000006) = .instr (.setDig 3 6 true) := by decide
theorem test_decode_setSeg : decode (.request 0x700200000049) = .instr (.setSeg 2 0x49) := by decide
theorem test_decode_setVal : decode (.request 0x880000000389) = .instr (.setVal 905 true) := by decide
theorem test_decode_setSpin : decode (.request 0x900100000000) = .instr (.setSpin .singleDigit) := by decide
theorem test_decode_spin : decode (.request 0xA00000000000) = .instr .spin := by decide
theorem test_decode_redraw : decode (.request 0xB00000000000) = .instr .redraw := by decide
theorem test_decode_getBits : decode (.request 0xC0000000000F) = .instr (.getBits 0xF) := by decide
theorem test_decode_layoutSelect : decode (.wire 0x02) = .instr (.layoutSelect 2) := by decide
theorem test_decode_dataSet : decode (.wire 0x40) = .instr .dataSet := by decide
theorem test_decode_displayCtrl : decode (.wire 0x8A) = .instr (.displayCtrl true 2) := by decide
theorem test_decode_addr : decode (.wire 0xC6) = .instr (.addr 6) := by decide

/-- L2.2, reason 1. -/
theorem test_decode_reserved_op :
    decode (.request 0xD00000000000) = .illegal .reservedOp ∧
    decode (.request 0xFFFFFFFFFFFF) = .illegal .reservedOp := by decide
/-- L2.2, reason 2; the mode check comes after it. -/
theorem test_decode_rsv :
    decode (.request 0x010000000000) = .illegal .rsvNonzero ∧
    decode (.request 0x930000000000) = .illegal .rsvNonzero := by decide
/-- L2.2, reason 3: F, A and B of RESET. -/
theorem test_decode_unused_reset :
    decode (.request 0x080000000000) = .illegal .unusedField ∧
    decode (.request 0x000100000000) = .illegal .unusedField ∧
    decode (.request 0x000000000001) = .illegal .unusedField := by decide
/-- L2.2, reason 3: one "0" field of each of the other shapes. -/
theorem test_decode_unused_others :
    decode (.request 0x300000000001) = .illegal .unusedField ∧
    decode (.request 0x400100000000) = .illegal .unusedField ∧
    decode (.request 0x700000000100) = .illegal .unusedField ∧
    decode (.request 0x800100000000) = .illegal .unusedField ∧
    decode (.request 0xC80000000000) = .illegal .unusedField := by decide
/-- L2.2, reason 4. -/
theorem test_decode_spin_mode :
    decode (.request 0x900300000000) = .illegal .badSpinMode ∧
    decode (.request 0x90FF00000000) = .illegal .badSpinMode := by decide
/-- R82: the data-set command in read mode is no byte of the block. -/
theorem test_decode_unknown_wire : decode (.wire 0x42) = .unknownWire 0x42 := by decide

/-! ### The assembler: L2.1 -/

theorem test_assemble_numbers :
    assemble "SETDIG 0, 0x1F, 0" = some (.request 0x60000000001F) ∧
    assemble "SETVAL 4294967295, 0" = some (.request 0x8000FFFFFFFF) := by decide
theorem test_assemble_pseudo :
    assemble "BLANK 2" = some (.request 0x700200000000) ∧
    assemble "SHOWHEX 1, 0xA" = some (.request 0x68010000000A) := by decide
theorem test_assemble_range : assemble "SETSEG 256, 0" = none ∧ assemble "SETCOL 2" = none := by decide
/-- notes/assumptions/15.md: both cases of a hexadecimal digit, spaces, and one case of a mnemonic. -/
theorem test_assemble_text :
    assemble "GETBITS 0xab" = assemble "GETBITS 0xAB" ∧ assemble " SETVAL  7 ,0 " = some (.request 0x800000000007) ∧
    assemble "redraw" = none ∧ assemble "GETBITS A" = none := by decide

/-! ### One instruction: 95_test_vectors.md L1 and L2 -/

/-- L2.3, N = 4, 6x12, dark: the display-control byte keeps powerOn. -/
theorem test_reset_frames :
    sent .reset { State.powerUp (configOf 4 .layout6x12) with powerOn := false } =
      some ([[0x02], [0x40], [0x87], [0xC0, 0x00, 0xC2, 0x00, 0xC4, 0x00, 0xC6, 0x00]], [0, 0, 0, 0]) := by decide
/-- L2.3: RESET out of a used state. -/
theorem test_reset_baseline :
    registers .reset
      { showing 4 [0x06, 0x5B, 0x4F, 0x66] true with spinMode := .singleDigit, spinPosition := 3, brightness := 2 } =
      some (false, true, 7, .none, 0) := by decide
/-- L2.7: ENABLE at brightness 5. -/
theorem test_enable :
    sent .enable { State.reset with powerOn := false, brightness := 5 } = some ([[0x8D]], [0, 0, 0, 0]) := by decide
/-- L2.7: DISABLE at brightness 3. -/
theorem test_disable :
    sent .disable { State.reset with brightness := 3 } = some ([[0x83]], [0, 0, 0, 0]) := by decide
/-- L1.8 in the dark. -/
theorem test_setBrt_dark :
    sent (.setBrt 255) { State.reset with powerOn := false } = some ([[0x87]], [0, 0, 0, 0]) := by decide
/-- L2.7: 8 masks to 0. -/
theorem test_setBrt_masks : registers (.setBrt 8) State.reset = some (false, true, 0, .none, 0) := by decide
/-- P1: the colon overlay reaches digits 0 and 1 only. -/
theorem test_setCol_change :
    sent (.setCol true) (showing 4 [0x06, 0x5B, 0x4F, 0x66] false) =
      some ([[0xC0, 0x86, 0xC2, 0xDB, 0xC4, 0x4F, 0xC6, 0x66]], [0x06, 0x5B, 0x4F, 0x66]) := by decide
/-- L1.4: no change, no frame. -/
theorem test_setCol_same : sent (.setCol true) (showing 4 [0, 0, 0, 0] true) = some ([], [0, 0, 0, 0]) := by decide
/-- L2.6: off again. -/
theorem test_tglCol :
    sent .tglCol (showing 4 [0x3F, 0x3F, 0x3F, 0x3F] true) =
      some ([[0xC0, 0x3F, 0xC2, 0x3F, 0xC4, 0x3F, 0xC6, 0x3F]], [0x3F, 0x3F, 0x3F, 0x3F]) := by decide
/-- L2.4: out of range with F = 1 (D21). -/
theorem test_setDig_out_of_range :
    sent (.setDig 4 1 true) (showing 4 [0, 0, 0x49, 0] false) =
      some ([[0xC0, 0x00, 0xC2, 0x00, 0xC4, 0x49, 0xC6, 0x00]], [0, 0, 0x49, 0]) := by decide
/-- L2.4: the value is masked to 0xF. -/
theorem test_setDig_masks :
    sent (.setDig 0 0x1F false) (showing 4 [0, 0, 0x49, 0] false) = some ([], [0x71, 0, 0x49, 0]) := by decide
/-- L2.4. -/
theorem test_setSeg : sent (.setSeg 2 0x49) State.reset = some ([], [0, 0, 0x49, 0]) := by decide
/-- L2.4: index N. -/
theorem test_setSeg_out_of_range : sent (.setSeg 4 0xFF) State.reset = some ([], [0, 0, 0, 0]) := by decide
/-- L2.5: 1005 shows its inner zeros. -/
theorem test_setVal_inner_zeros :
    sent (.setVal 1005 false) State.reset =
      some ([[0xC0, 0x06, 0xC2, 0x3F, 0xC4, 0x3F, 0xC6, 0x6D]], [0x06, 0x3F, 0x3F, 0x6D]) := by decide
/-- L2.5: N = 3, a leading blank. -/
theorem test_setVal_blank :
    sent (.setVal 42 false) (State.powerUp (configOf 3 .layout7x11)) =
      some ([[0xC0, 0x00, 0xC2, 0x66, 0xC4, 0x5B]], [0x00, 0x66, 0x5B]) := by decide
/-- L2.9: the position is reset in the same mode, and no frame is sent. -/
theorem test_setSpin :
    registers (.setSpin .singleDigit) (spinning 4 .singleDigit 3) = some (false, true, 7, .singleDigit, 0) ∧
    sent (.setSpin .singleDigit) (spinning 4 .singleDigit 3) = some ([], [0, 0, 0, 0]) := by decide
/-- L1.5, call 6: the last position and the wrap. -/
theorem test_spin_single :
    sent .spin (spinning 4 .singleDigit 5) =
      some ([[0xC0, 0x20, 0xC2, 0x00, 0xC4, 0x00, 0xC6, 0x00]], [0x20, 0, 0, 0]) ∧
    registers .spin (spinning 4 .singleDigit 5) = some (false, true, 7, .singleDigit, 0) := by decide
/-- L1.6, call 9, and call 12 on three digits (L2.9). -/
theorem test_spin_full :
    sent .spin (spinning 4 .fullDisplay 8) =
      some ([[0xC0, 0x00, 0xC2, 0x08, 0xC4, 0x00, 0xC6, 0x00]], [0, 0x08, 0, 0]) ∧
    sent .spin (spinning 3 .fullDisplay 11) = some ([[0xC0, 0x20, 0xC2, 0x00, 0xC4, 0x00]], [0x20, 0, 0]) ∧
    registers .spin (spinning 3 .fullDisplay 11) = some (false, true, 7, .fullDisplay, 0) := by decide
/-- L2.3: N = 1 with the colon. -/
theorem test_redraw_one_digit : sent .redraw (showing 1 [0x06] true) = some ([[0xC0, 0x86]], [0x06]) := by decide
/-- L2.3: a stored bit 7 is sent. -/
theorem test_redraw_stored_point :
    sent .redraw (showing 4 [0x80, 0, 0, 0] false) =
      some ([[0xC0, 0x80, 0xC2, 0x00, 0xC4, 0x00, 0xC6, 0x00]], [0x80, 0, 0, 0]) := by decide
/-- L2.8. -/
theorem test_getBits :
    answers (State.reset.withFetchWord 48 0xC000000000A5) = some [{ err := false, data := 0x6D }] := by decide
/-- R112: the block's own layout-select byte, and the other layout's. -/
theorem test_layoutSelect :
    sent (.layoutSelect 3) State.reset = some ([[0x03]], [0, 0, 0, 0]) ∧
    sent (.layoutSelect 2) State.reset = none := by decide
/-- R113. -/
theorem test_dataSet : sent .dataSet State.reset = some ([[0x40]], [0, 0, 0, 0]) := by decide
/-- R114. -/
theorem test_displayCtrl : sent (.displayCtrl false 5) State.reset = some ([[0x85]], [0, 0, 0, 0]) := by decide
/-- R116 in R117's frame. -/
theorem test_addr :
    sent (.addr 2) (showing 2 [0x06, 0x5B] false) = some ([[0xC0, 0x06, 0xC2, 0x5B]], [0x06, 0x5B]) := by decide

/-- R85: the first and last frames of the reference table, and one on the way. -/
theorem test_referenceSpinTable :
    referenceSpinTable[0] = 0x01 ∧ referenceSpinTable[19] = 0x02 ∧ referenceSpinTable[44] = 0x20 ∧
    referenceSpinTable[45] = 0x00 := by decide
/-- L2.5: the writes of SETVAL 70, 0. -/
theorem test_digitWrites :
    digitWrites State.reset (.setVal 70 false) = [(0, 0x00), (1, 0x00), (2, 0x07), (3, 0x3F)] := by decide

/-! ### The step -/

/-- L2.2: an illegal word is answered (1, 0x00) and changes nothing else. -/
theorem test_step_illegal :
    nextState? (step (State.reset.withFetchWord 48 0x900300000000)) =
      some { State.reset with responses := [{ err := true, data := 0x00 }] } := by decide
/-- R61: an instruction runs as the first one after reset, and is consumed. -/
theorem test_step_from_reset :
    nextState? (step (State.reset.withFetchWord 48 0x700200000049)) =
      some { State.reset with
        digits := [0, 0, 0x49, 0], responses := [{ err := false, data := 0x00 }] } := by decide
/-- A wire command runs from reset too (notes/assumptions/8.md). -/
theorem test_step_wire :
    (nextState? (step (State.reset.withFetchWord 8 0x8F))).map (·.wire) = some [[0x8F]] := by decide
/-- 60_exceptions.md R200: N = 5 is refused with its value. -/
theorem test_construct : nextState? (construct (configOf 5 .layout7x11)) = none ∧
    (nextState? (construct (configOf 1 .layout6x12))).map (·.digits) = some [0x00] := by decide
/-- The table's bits to an instruction. -/
theorem test_decodeTableWord :
    decodeTableWord 48 0x30FF00000000 = some (.setBrt 255) ∧ decodeTableWord 8 0xC4 = some (.addr 4) ∧
    decodeTableWord 48 0x900300000000 = none := by decide

/-! ### The wire: L2.3 -/

/-- The bit-level expansion of the frame [8F]. -/
theorem test_bits_of_8F :
    frameEvents [0x8F] =
      [.stb false,
       .dio true, .clk true, .clk false, .dio true, .clk true, .clk false,
       .dio true, .clk true, .clk false, .dio true, .clk true, .clk false,
       .dio false, .clk true, .clk false, .dio false, .clk true, .clk false,
       .dio false, .clk true, .clk false, .dio true, .clk true, .clk false,
       .stb true] := by decide
/-- Eight rising edges, and DIO = 1 afterwards. -/
theorem test_edges_of_8F :
    risingEdges false (frameEvents [0x8F]) = 8 ∧
    driveFrame State.reset.lines [0x8F] = { stb := true, clk := false, dio := true } := by decide
/-- A listener hears the bits least significant first. -/
theorem test_listener :
    heardBrackets State.reset.lines (frameEvents [0x8F]) =
      [[true, true, true, true, false, false, false, true]] := by decide

/-! ### Witnesses: a concrete state and operands that meet the hypotheses of each statement -/

theorem reset_inv : State.reset.Inv :=
  ⟨by decide, by decide, rfl, by decide, by decide, by decide⟩

/-- The invariants also hold with one digit and the spinner at its last position, in either mode. -/
theorem spinning_inv :
    (spinning 1 .singleDigit 5).Inv ∧ (spinning 4 .singleDigit 0).Inv ∧
    (spinning 1 .fullDisplay 11).Inv ∧ (spinning 4 .fullDisplay 0).Inv :=
  ⟨⟨by decide, by decide, (by decide : (5 : BitVec 4).toNat < singleSpinSteps), by decide, by decide, by decide⟩,
   ⟨by decide, by decide, (by decide : (0 : BitVec 4).toNat < singleSpinSteps), by decide, by decide, by decide⟩,
   ⟨by decide, by decide, (by decide : (11 : BitVec 4).toNat < fullSpinSteps), by decide, by decide, by decide⟩,
   ⟨by decide, by decide, (by decide : (0 : BitVec 4).toNat < fullSpinSteps), by decide, by decide, by decide⟩⟩

theorem witness_EncodeInvertsDecode :
    decode (.request 0x900200000000) = .instr (.setSpin .fullDisplay) ∧
    decode (.wire 0xC4) = .instr (.addr 4) := by decide
theorem witness_RequestWordFormula :
    requestFields (.setDig 255 0xFFFFFFFF true) = some (0x6, 1, 255, 0xFFFFFFFF) := by decide
/-- The legality limits of R75: OP 0xC and 0xD, RSV 0 and 1, A = 2 and 3. -/
theorem witness_IllegalWordsAndTheirAnswer :
    decode (.request 0xC00000000000) = .instr (.getBits 0) ∧
    decode (.request 0xD00000000000) = .illegal .reservedOp ∧
    decode (.request 0xC10000000000) = .illegal .rsvNonzero ∧
    decode (.request 0x08FFFFFFFFFF) = .illegal .unusedField ∧
    decode (.request 0x900300000000) = .illegal .badSpinMode ∧
    (State.reset.withFetchWord 48 0x900300000000).pending = [.request 0x900300000000] := by decide
theorem witness_StepRunsDecodedInstruction :
    (State.reset.withFetchWord 48 0xA00000000000).pending = [.request 0xA00000000000] ∧
    decode (.request 0xA00000000000) = .instr .spin := by decide
theorem witness_StepWithoutInstruction :
    State.reset.pending = [] ∧ (State.reset.withFetchWord 8 0x42).pending = [.wire 0x42] ∧
    decode (.wire 0x42) = .unknownWire 0x42 := by decide
theorem witness_EveryRequestAnswersOnce :
    (State.reset.withFetchWord 48 0xC0000000000F).pending = [.request 0xC0000000000F] ∧
    decode (.request 0xC0000000000F) = .instr (.getBits 0xF) ∧
    (State.reset.withFetchWord 48 0xFFFFFFFFFFFF).pending = [.request 0xFFFFFFFFFFFF] := by decide
theorem witness_StepsFollowThePresentedSequence :
    (State.reset.withPending [.request 0x480000000000, .request 0xA00000000000]).pending =
      [Instr.setCol true, Instr.spin].map encode ++ [] := by decide
theorem witness_ConstructionChecksDigitCount :
    ¬ (1 ≤ (configOf 0 .layout7x11).n) ∧ ¬ ((configOf 5 .layout7x11).n ≤ 4) ∧
    (configOf 1 .layout6x12).Legal ∧ (configOf 4 .layout7x11).Legal := by decide
theorem witness_PowerOnState : (configOf 4 .layout6x12).Legal ∧ (configOf 1 .layout7x11).Legal := by decide

/-- Of RESET's, REDRAW's, SETVAL's and the frames' statements: the digit count at its two limits. -/
theorem witness_digit_count :
    (State.powerUp (configOf 1 .layout7x11)).digits.length = (State.powerUp (configOf 1 .layout7x11)).cfg.n ∧
    (showing 4 [0x06, 0x5B, 0x4F, 0x66] true).digits.length = (showing 4 [0x06, 0x5B, 0x4F, 0x66] true).cfg.n := by
  decide
/-- The digit positions on either side of the overlay's limit, and the last digit. -/
theorem witness_RedrawSendsEveryDigit :
    memRead (showing 4 [0x06, 0x5B, 0x4F, 0x66] true) 1 = some 0x5B ∧
    memRead (showing 4 [0x06, 0x5B, 0x4F, 0x66] true) 2 = some 0x4F ∧
    memRead (showing 4 [0x06, 0x5B, 0x4F, 0x66] true) 3 = some 0x66 := by decide
theorem witness_SetColonTwiceRedrawsOnce : State.reset.colonEnabled = !true := by decide
theorem witness_BoundedWrite :
    State.reset.digits.length = State.reset.cfg.n ∧ 3 < State.reset.cfg.n ∧ State.reset.cfg.n ≤ 4 ∧ (2 : Nat) ≠ 3 ∧
    digitWrites State.reset (.setSeg 4 0x49) = [(4, 0x49)] ∧
    (nextState? (exec (.setSeg 4 0x49) State.reset)).isSome = true := by decide
/-- Of SETSEG and SETDIG: the last digit and the first index past it. -/
theorem witness_digit_index :
    (3 : Byte).toNat < State.reset.cfg.n ∧ State.reset.cfg.n ≤ (4 : Byte).toNat ∧
    State.reset.digits.length = State.reset.cfg.n := by decide
theorem witness_DecimalDigitsRepresentValue : 9999 < 10 ^ 4 := by decide
theorem witness_SpinInModeNoneDoesNothing : State.reset.spinMode = .none := by decide
theorem witness_SpinSingleRotatesOneSegment :
    (spinning 1 .singleDigit 5).Inv ∧ (spinning 1 .singleDigit 5).spinMode = .singleDigit :=
  ⟨spinning_inv.1, by decide⟩
theorem witness_SpinFullShowsTableFrame :
    (spinning 1 .fullDisplay 11).Inv ∧ (spinning 1 .fullDisplay 11).spinMode = .fullDisplay :=
  ⟨spinning_inv.2.2.1, by decide⟩
/-- Each clause: the block's own layout code and another one, the last digit's slot, and a slot past it. -/
theorem witness_LayoutAndAddressCommandsSendOrRefuse :
    referenceConfig.cmdLayoutBase ||| (3 : BitVec 2).setWidth 8 = layoutCmd referenceConfig ∧
    referenceConfig.cmdLayoutBase ||| (2 : BitVec 2).setWidth 8 ≠ layoutCmd referenceConfig ∧
    referenceConfig.cmdAddrBase ||| (6 : BitVec 4).setWidth 8 = addrCmd referenceConfig 3 ∧
    (∀ i, i < referenceConfig.n → referenceConfig.cmdAddrBase ||| (8 : BitVec 4).setWidth 8 ≠
      addrCmd referenceConfig i) := by decide
theorem witness_ReferenceCommandBytes : (3 : Nat) < 4 := by decide
theorem witness_ListenerHearsTheFrames :
    [[0x8F]].flatMap frameEvents = [[0x8F]].flatMap frameEvents := by decide
theorem witness_LinesFollowTheWireTrace :
    State.reset.lines = (lineTrace State.reset).foldl driveLine (State.powerUp referenceConfig).lines ∧
    (nextState? (step (State.reset.withFetchWord 48 0xB00000000000))).isSome = true := by decide
/-- Of StepAppendsFramesOfTwoKinds and StepKeepsInvariant: a step that sends a frame, from a state with Inv. -/
theorem witness_step_with_invariant :
    ((State.reset.withFetchWord 48 0xB00000000000).Inv) ∧
    (nextState? (step (State.reset.withFetchWord 48 0xB00000000000))).map (·.wire.length) = some 1 :=
  ⟨⟨by decide, by decide, rfl, by decide, by decide, by decide⟩, by decide⟩
theorem witness_PowerOnInvariant : referenceConfig.Legal := by decide
/-- Every register is written by some instruction. -/
theorem witness_OnlyNamedRequestsWriteARegister :
    registers .tglCol State.reset = some (true, true, 7, .none, 0) ∧
    registers .disable State.reset = some (false, false, 7, .none, 0) ∧
    registers (.setBrt 2) State.reset = some (false, true, 2, .none, 0) ∧
    registers (.setSpin .fullDisplay) State.reset = some (false, true, 7, .fullDisplay, 0) ∧
    registers .spin (spinning 4 .fullDisplay 0) = some (false, true, 7, .fullDisplay, 1) :=
  ⟨by decide, by decide, by decide, by decide, by decide⟩
theorem witness_PowerAndBrightnessChangesAreSent :
    (nextState? (exec .disable State.reset)).map (·.powerOn) = some false ∧ State.reset.powerOn = true ∧
    (nextState? (exec (.setBrt 2) State.reset)).map (·.brightness) = some 2 ∧ State.reset.brightness ≠ 2 := by decide
theorem witness_PowerChangesOnlyTheOnBit : (Instr.setDig 3 6 true).isRequest = true := by decide
/-- The mask is bit 7 and the reference font has it clear, and a digit with a stored bit 7 keeps it. -/
theorem witness_ColonIsNeverStored :
    referenceConfig.colonMask.getLsbD 7 = true ∧
    (∀ k (h : k < 16), referenceConfig.font[k].getLsbD 7 = false) ∧
    (nextState? (exec (.setCol true) (showing 4 [0x80, 0, 0, 0] false))).map (fun t => memRead t 0) =
      some (some 0x80) := by decide
theorem witness_SpinnerSequencingLaw :
    State.reset.Inv ∧ SpinMode.fullDisplay ≠ .none ∧
    (∀ i ∈ [Instr.spin, .redraw, .spin], i.isRequest = true ∧ i ≠ .reset ∧ ∀ m', i ≠ .setSpin m') := by
  refine ⟨reset_inv, by decide, ?_⟩
  intro i hi
  have h : i = .spin ∨ i = .redraw ∨ i = .spin := by simpa using hi
  rcases h with rfl | rfl | rfl <;> exact ⟨rfl, by decide, fun _ h => by cases h⟩

end Sys2Proof.Tests
end

section
/-! SUPPORT. Decoding an instruction's code gives the instruction back (30_encoding.md R70, R75, R81), and with it the presented sequence of 10_state.md R24 is executed in order. -/

namespace Sys2Proof

/-- A word of a legal opcode whose "0" fields are 0 decodes to what its opcode names. -/
theorem decodeRequest_of_legal (op : BitVec 4) (f : Bool) (a : Byte) (b : BitVec 32)
    (hop : op.toNat ≤ 0xC) (hz : hasUnusedField op.toNat f a b = false) :
    decodeRequest (requestWord op f a b) = requestOf op.toNat f a b := by
  simp [decodeRequest, hz, Nat.not_lt.mpr hop]

/-- SETSEG's word has no unused bit set: its bitmap leaves the upper three bytes of B at 0. -/
theorem hasUnusedField_setSeg (i m : Byte) : hasUnusedField 0x7 false i (m.setWidth 32) = false := by
  have h : m.setWidth 32 &&& ~~~ usedB 0x7 = 0 := Laws.OpcodeRow.low_byte_masked m
  simp [hasUnusedField, usesA, h]

theorem decode_encode (i : Instr) : decode (encode i) = .instr i := by
  cases i with
  | reset => decide
  | enable => decide
  | disable => decide
  | setBrt a =>
    exact decodeRequest_of_legal 0x3 false a 0 (by decide) (by simp [hasUnusedField, usesA])
  | setCol f => exact decodeRequest_of_legal 0x4 f 0 0 (by decide) (by simp [hasUnusedField, usesF])
  | tglCol => decide
  | setDig i v f =>
    exact decodeRequest_of_legal 0x6 f i v (by decide) (by simp [hasUnusedField, usesF, usesA, usedB])
  | setSeg i m =>
    have h := decodeRequest_of_legal 0x7 false i (m.setWidth 32) (by decide) (hasUnusedField_setSeg i m)
    simpa [decode, encode, requestOf] using h
  | setVal v f =>
    exact decodeRequest_of_legal 0x8 f 0 v (by decide) (by simp [hasUnusedField, usesF, usedB])
  | setSpin m => cases m <;> decide
  | spin => decide
  | redraw => decide
  | getBits v => exact decodeRequest_of_legal 0xC false 0 v (by decide) (by simp [hasUnusedField, usedB])
  | layoutSelect code => exact (by decide : ∀ c, decode (encode (.layoutSelect c)) = .instr (.layoutSelect c)) code
  | dataSet => decide
  | displayCtrl on b =>
    exact (by decide : ∀ on b, decode (encode (.displayCtrl on b)) = .instr (.displayCtrl on b)) on b
  | addr sl => exact (by decide : ∀ sl, decode (encode (.addr sl)) = .instr (.addr sl)) sl

end Sys2Proof

namespace Sys2Proof.Machine

/-- A step takes the first presented code and executes the instruction it encodes. -/
theorem step_of_encoded (i : Instr) (s : State) (rest : List Code) (h : s.pending = encode i :: rest) :
    step s = exec i (s.withPending rest) := by
  simp only [step, fetch, h, decode_encode]

/-- Settles O10, by induction on the presented instructions: each step executes the first one, which does not
look at the rest of what is presented. -/
theorem stepsFollowThePresentedSequence : Obligations.StepsFollowThePresentedSequence := by
  intro is
  induction is with
  | nil =>
    intro s rest h
    have : s.withPending rest = s := by rw [← (show s.pending = rest from h)]; rfl
    rw [this]; rfl
  | cons i is ih =>
    intro s rest h
    have hstep : core.step s = presenting (is.map encode ++ rest) (exec i s) := by
      rw [← exec_withPending]
      exact step_of_encoded i s _ h
    simp only [List.length_cons, Host.Core.run, execAll, exec_withPending, hstep]
    cases exec i s with
    | next t => exact ih (t.withPending (is.map encode ++ rest)) rest rfl
    | fault r => rfl
    | refused r => rfl

end Sys2Proof.Machine
end

section
/-! SUPPORT. What an instruction writes to the display state and which frames it sends, said once for every instruction (10_state.md R20, R25 to R32, 40_wire.md R121). -/

namespace Sys2Proof.Machine

theorem KeepsDisplay.refl (s : State) : KeepsDisplay s s := ⟨rfl, rfl, rfl, rfl, rfl, rfl⟩

theorem KeepsDisplay.trans {s t u : State} (h : KeepsDisplay s t) (k : KeepsDisplay t u) : KeepsDisplay s u :=
  ⟨k.digits.trans h.digits, k.colonEnabled.trans h.colonEnabled, k.powerOn.trans h.powerOn,
    k.brightness.trans h.brightness, k.spinMode.trans h.spinMode, k.spinPosition.trans h.spinPosition⟩

theorem KeepsDisplay.memRead {s t : State} (h : KeepsDisplay s t) (j : Nat) : memRead t j = memRead s j := by
  simp only [Machine.memRead, h.digits]

theorem KeepsDisplay.redrawFrame {s t : State} (h : KeepsDisplay s t) (hc : t.cfg = s.cfg) :
    redrawFrame t = redrawFrame s := by
  simp only [Machine.redrawFrame, hc, h.colonEnabled, h.digits]

theorem emit_keepsDisplay (s : State) (f : Frame) : KeepsDisplay s (emit s f) := ⟨rfl, rfl, rfl, rfl, rfl, rfl⟩

theorem respond_keepsDisplay (s : State) (e : Bool) (d : Byte) : KeepsDisplay s (respond s e d) :=
  ⟨rfl, rfl, rfl, rfl, rfl, rfl⟩

theorem OnlyDigits.wire {s t : State} (h : OnlyDigits s t) : t.wire = s.wire := by rw [h.eq]

theorem OnlyDigits.keepsRegisters {s t : State} (h : OnlyDigits s t) : KeepsRegisters s t :=
  ⟨h.count, by rw [h.eq], by rw [h.eq], by rw [h.eq], by rw [h.eq], by rw [h.eq]⟩

/-- t is u after some transmissions: the configuration and the display state are the same, and every frame
appended to W is a command frame or the redraw frame of u. -/
structure Transmits (u t : State) : Prop where
  cfg : t.cfg = u.cfg
  display : KeepsDisplay u t
  wire : ∃ fs, t.wire = u.wire ++ fs ∧ ∀ f ∈ fs, IsCommandFrame u.cfg f ∨ f = redrawFrame u

theorem Transmits.refl (s : State) : Transmits s s := ⟨rfl, .refl s, [], by simp, by simp⟩

theorem Transmits.emit {u t : State} (h : Transmits u t) (f : Frame)
    (hf : IsCommandFrame u.cfg f ∨ f = redrawFrame u) : Transmits u (emit t f) := by
  obtain ⟨hc, hd, fs, hw, hfs⟩ := h
  refine ⟨hc, hd.trans (emit_keepsDisplay t f), fs ++ [f], by simp [hw], ?_⟩
  simpa [or_imp, forall_and] using ⟨hfs, hf⟩

theorem Transmits.updateDisplayState {u t : State} (h : Transmits u t) : Transmits u (updateDisplayState t) :=
  h.emit _ (.inl (.inr (.inr ⟨t.powerOn, t.brightness, by rw [h.cfg]⟩)))

theorem Transmits.redraw {u t : State} (h : Transmits u t) : Transmits u (redraw t) :=
  h.emit _ (.inr (h.display.redrawFrame h.cfg))

theorem Transmits.respond {u t : State} (h : Transmits u t) (e : Bool) (d : Byte) : Transmits u (respond t e d) :=
  ⟨h.cfg, h.display.trans (respond_keepsDisplay t e d), h.wire⟩

/-- The digits after SPIN's writes (42_animation.md R182, R183, R184), by spinMode. -/
def spinDigits (s : State) : State :=
  match s.spinMode with
  | .none => s
  | .singleDigit => memWrite s 0 (spinBit s.spinPosition)
  | .fullDisplay => writeSpinFrame s.spinPosition.toNat s

/-- The position after SPIN (R182, R183, R184), by spinMode. -/
def positionAfterSpin (s : State) : BitVec 4 :=
  match s.spinMode with
  | .none => s.spinPosition
  | .singleDigit => nextPosition singleSpinSteps s.spinPosition
  | .fullDisplay => nextPosition fullSpinSteps s.spinPosition

theorem spinDigits_onlyDigits (s : State) : OnlyDigits s (spinDigits s) := by
  unfold spinDigits
  split
  · exact .refl s
  · exact memWrite_onlyDigits ..
  · exact writeSpinFrame_onlyDigits ..

/-- What an instruction writes to the display state, without its frames and its response. -/
def writeDisplay (s : State) : Instr → State
  | .reset => baseline s
  | .enable => setPowerFlag true s
  | .disable => setPowerFlag false s
  | .setBrt a => { s with brightness := brightnessOf a }
  | .setCol f => setColonFlag f s
  | .tglCol => setColonFlag (!s.colonEnabled) s
  | .setDig i v _ => memWrite s i.toNat (font4 s.cfg v.toNat)
  | .setSeg i m => memWrite s i.toNat m
  | .setVal v z => writeValue v.toNat z s.cfg.n false s
  | .setSpin m => { s with spinMode := m, spinPosition := 0 }
  | .spin => { spinDigits s with spinPosition := positionAfterSpin s }
  | .redraw => s
  | .getBits _ => s
  | .layoutSelect _ => s
  | .dataSet => s
  | .displayCtrl _ _ => s
  | .addr _ => s

/-- SETCOL's body writes the flag and redraws; where the flag does not change there is nothing to send (R145). -/
theorem changeColon_transmits (f : Bool) (s : State) : Transmits (setColonFlag f s) (changeColon f s) := by
  by_cases h : f = s.colonEnabled
  · subst h
    rw [changeColon, if_neg (by simp [colonChanges])]
    exact .refl s
  · simpa [changeColon, colonChanges, h] using (Transmits.refl (setColonFlag f s)).redraw

/-- An instruction that answers a next state does its writes and then transmits. -/
theorem exec_transmits {i : Instr} {s t : State} (h : exec i s = .next t) : Transmits (writeDisplay s i) t := by
  cases i with
  | reset =>
    cases h
    exact ((((Transmits.refl (baseline s)).emit _ (.inl (.inl rfl))).emit _
      (.inl (.inr (.inl rfl)))).updateDisplayState.redraw).respond ..
  | enable => cases h; exact (Transmits.refl _).updateDisplayState.respond ..
  | disable => cases h; exact (Transmits.refl _).updateDisplayState.respond ..
  | setBrt a => cases h; exact (Transmits.refl (writeDisplay s (.setBrt a))).updateDisplayState.respond ..
  | setCol f => cases h; exact (changeColon_transmits f s).respond ..
  | tglCol => cases h; exact (changeColon_transmits _ s).respond ..
  | setDig a v f =>
    cases h
    cases f with
    | false => exact (Transmits.refl _).respond ..
    | true => exact (Transmits.refl _).redraw.respond ..
  | setSeg a m => cases h; exact (Transmits.refl _).respond ..
  | setVal v z => cases h; exact (Transmits.refl _).redraw.respond ..
  | setSpin m => cases h; exact (Transmits.refl (writeDisplay s (.setSpin m))).respond ..
  | spin =>
    simp only [exec, execSpin] at h
    simp only [writeDisplay, spinDigits, positionAfterSpin]
    cases hm : s.spinMode with
    | none => rw [hm] at h; cases h; exact (Transmits.refl s).respond ..
    | singleDigit => rw [hm] at h; cases h; exact (Transmits.refl _).redraw.respond ..
    | fullDisplay => rw [hm] at h; cases h; exact (Transmits.refl _).redraw.respond ..
  | redraw => cases h; exact (Transmits.refl s).redraw.respond ..
  | getBits v => cases h; exact (Transmits.refl s).respond ..
  | layoutSelect code =>
    simp only [exec, execLayoutSelect] at h
    split at h
    · cases h; exact (Transmits.refl s).emit _ (.inl (.inl rfl))
    · cases h
  | dataSet => cases h; exact (Transmits.refl s).emit _ (.inl (.inr (.inl rfl)))
  | displayCtrl on b => cases h; exact (Transmits.refl s).emit _ (.inl (.inr (.inr ⟨on, b, rfl⟩)))
  | addr sl =>
    simp only [exec, execAddr] at h
    split at h
    · cases h; exact (Transmits.refl s).redraw
    · cases h

/-- What an instruction that answers a next state emits, and that it keeps the number of digit registers. -/
theorem exec_emits {i : Instr} {s t : State} (h : exec i s = .next t) :
    (∃ fs rs, Emits s t fs rs) ∧ t.digits.length = s.digits.length := by
  obtain ⟨u, fs, rs, hu, he, hl, -⟩ | ⟨-, r, hr⟩ := exec_next_or_refused i s
  · rw [h] at hu
    cases hu
    exact ⟨⟨fs, rs, he⟩, hl⟩
  · rw [h] at hr
    cases hr

end Sys2Proof.Machine
end

section
/-! SUPPORT. Construction (10_state.md R32, R33), the writers of each register (R23, R25 to R31), and the colon that is never stored (R38(8)). -/

namespace Sys2Proof.Machine

/-- Settles O12: the power-on state, field by field. -/
theorem powerOnState : Obligations.PowerOnState := by
  intro c hc
  have hpower : construct c = .next (State.powerUp c) := by
    rw [construct, if_neg (not_not.mpr hc.1), if_neg (not_not.mpr hc.2)]
  have hcleared : ∀ i, i < c.n → memRead (State.powerUp c) i = some 0x00 := by
    intro i hi
    simp [memRead, State.powerUp, hi]
  exact ⟨_, hpower, rfl, List.length_replicate, hcleared, rfl, rfl, rfl, rfl, rfl, rfl, rfl, rfl, rfl, rfl, rfl⟩

/-- Settles O39: nothing has been sent, so DIO holds the last bit of an empty W. -/
theorem powerOnInvariant : Obligations.PowerOnInvariant :=
  fun _ hc => ⟨hc, List.length_replicate, rfl, rfl, rfl, rfl⟩

/-- Settles O41: the transmissions keep every register, and each instruction's writes name theirs. -/
theorem onlyNamedRequestsWriteARegister : Obligations.OnlyNamedRequestsWriteARegister := by
  intro i s t h
  obtain ⟨⟨fs, rs, he⟩, -⟩ := exec_emits h
  obtain ⟨hdigits, hcolon, hpower, hbrt, hmode, hpos⟩ := (exec_transmits h).display
  refine ⟨he.cfg, ?_⟩
  rw [hdigits, hcolon, hpower, hbrt, hmode, hpos]
  cases i with
  | reset => simp [writeDisplay, baseline, (clearDigits_onlyDigits s).keepsRegisters.powerOn]
  | spin =>
    obtain ⟨-, kc, kp, kb, km, -⟩ := (spinDigits_onlyDigits s).keepsRegisters
    simp [writeDisplay, kc, kp, kb, km]
  | setVal v z =>
    obtain ⟨-, kc, kp, kb, km, kq⟩ := (writeValue_onlyDigits v.toNat z s.cfg.n false s).keepsRegisters
    simp [writeDisplay, kc, kp, kb, km, kq]
  | setDig | setSeg => simp [writeDisplay]
  | enable | disable | setBrt | setCol | tglCol | setSpin => simp [writeDisplay]
  | redraw | getBits | layoutSelect | dataSet | displayCtrl | addr => simp [writeDisplay]

/-- No digit of t has the bit b that did not hold the same value in s. -/
def NoNewBit (b : Nat) (s t : State) : Prop :=
  ∀ (j : Nat) (d : Byte), memRead t j = some d → d.getLsbD b = true → memRead s j = some d

theorem NoNewBit.refl (b : Nat) (s : State) : NoNewBit b s s := fun _ _ h _ => h

theorem NoNewBit.trans {b : Nat} {s t u : State} (h : NoNewBit b s t) (k : NoNewBit b t u) : NoNewBit b s u :=
  fun j d hu hb => h j d (k j d hu hb) hb

theorem memWrite_noNewBit {b : Nat} {v : Byte} (hv : v.getLsbD b = false) (s : State) (i : Nat) :
    NoNewBit b s (memWrite s i v) := by
  intro j d hd hb
  rw [memRead_memWrite] at hd
  split at hd
  · cases hd
    rw [hv] at hb
    cases hb
  · exact hd

theorem foldl_noNewBit {α : Type} {b : Nat} {g : State → α → State} (hg : ∀ t a, NoNewBit b t (g t a))
    (l : List α) (s : State) : NoNewBit b s (l.foldl g s) := by
  induction l generalizing s with
  | nil => exact .refl b s
  | cons a l ih => exact (hg s a).trans (ih (g s a))

/-- SETVAL's loop writes blanks and font entries only. -/
theorem writeValue_noNewBit {b : Nat} {c : Config} (hfont : ∀ v, (font4 c v).getLsbD b = false)
    (v : Nat) (z : Bool) (k : Nat) (seen : Bool) (s : State) (hc : s.cfg = c) :
    NoNewBit b s (writeValue v z k seen s) := by
  induction k generalizing seen s with
  | zero => exact .refl b s
  | succ k ih =>
    simp only [writeValue, hc]
    split
    · exact (memWrite_noNewBit BitVec.getLsbD_zero s _).trans (ih _ _ hc)
    · exact (memWrite_noNewBit (hfont _) s _).trans (ih _ _ hc)

/-- Every instruction but SETSEG and SPIN writes to the digits blanks and font entries only. -/
theorem writeDisplay_noNewBit {b : Nat} (s : State) (i : Instr) (hfont : ∀ v, (font4 s.cfg v).getLsbD b = false)
    (hspin : i ≠ .spin) (hseg : ∀ a m, i ≠ .setSeg a m) : NoNewBit b s (writeDisplay s i) := by
  cases i with
  | reset =>
    exact foldl_noNewBit (g := fun t i => memWrite t i 0x00)
      (fun t i => memWrite_noNewBit BitVec.getLsbD_zero t i) (List.range s.cfg.n) s
  | setDig a v f => exact memWrite_noNewBit (hfont _) s _
  | setVal v z => exact writeValue_noNewBit hfont _ _ _ _ s rfl
  | setSeg a m => exact absurd rfl (hseg a m)
  | spin => exact absurd rfl hspin
  | enable | disable | setBrt | setCol | tglCol | setSpin => exact .refl b s
  | redraw | getBits | layoutSelect | dataSet | displayCtrl | addr => exact .refl b s

/-- Settles O44: the overlay stands in the frames alone, and the digits come from blanks and font entries. -/
theorem colonIsNeverStored : Obligations.ColonIsNeverStored := by
  refine ⟨?_, ?_⟩
  · intro i s t hi h
    rw [(exec_transmits h).display.digits]
    rcases hi with rfl | ⟨f, rfl⟩ <;> rfl
  · intro i s t b _ hfont hspin hseg h j d hd hb
    rw [(exec_transmits h).display.memRead] at hd
    exact writeDisplay_noNewBit s i (fun v => hfont _ _) hspin hseg j d hd hb

end Sys2Proof.Machine
end

section
/-! SUPPORT. The wire trace and the invariants of 10_state.md R38: every step sends frames of R121's two kinds only and keeps the invariants. -/

namespace Sys2Proof.Machine

theorem writeDisplay_wire (s : State) (i : Instr) : (writeDisplay s i).wire = s.wire := by
  cases i with
  | reset => exact (clearDigits_onlyDigits s).wire
  | setVal v z => exact (writeValue_onlyDigits ..).wire
  | spin => exact (spinDigits_onlyDigits s).wire
  | setDig | setSeg => rfl
  | enable | disable | setBrt | setCol | tglCol | setSpin => rfl
  | redraw | getBits | layoutSelect | dataSet | displayCtrl | addr => rfl

theorem redrawFrame_isRedrawFrame {s : State} (h : s.digits.length = s.cfg.n) :
    IsRedrawFrame s.cfg (redrawFrame s) := by
  refine ⟨by rw [redrawFrame_length, h], fun i hi => ?_⟩
  rw [redrawFrame, redrawBytes_addr _ _ _ _ _ (h ▸ hi), Nat.zero_add]

theorem IsCommandFrame.ne_nil {c : Config} {f : Frame} (h : IsCommandFrame c f) : f ≠ [] := by
  obtain rfl | rfl | ⟨on, b, rfl⟩ := h <;> exact List.cons_ne_nil _ _

theorem IsRedrawFrame.ne_nil {c : Config} {f : Frame} (hc : 1 ≤ c.n) (h : IsRedrawFrame c f) : f ≠ [] := by
  rintro rfl
  obtain ⟨hlen, -⟩ := h
  rw [List.length_nil] at hlen
  omega

/-- What an instruction appends to W: non-empty frames of R121's two kinds. -/
theorem exec_appends_frames {i : Instr} {s t : State} (hs : s.Inv) (h : exec i s = .next t) :
    ∃ fs : List Frame, t.wire = s.wire ++ fs ∧
      ∀ f ∈ fs, f ≠ [] ∧ (IsCommandFrame s.cfg f ∨ IsRedrawFrame s.cfg f) := by
  obtain ⟨⟨_, _, he⟩, hlen⟩ := exec_emits h
  obtain ⟨hcfg, hdisplay, fs, hwire, hfs⟩ := exec_transmits h
  have hcount : t.digits.length = t.cfg.n := by rw [hlen, hs.digitCount, he.cfg]
  rw [← hcfg, he.cfg, ← hdisplay.redrawFrame hcfg] at hfs
  refine ⟨fs, by rw [hwire, writeDisplay_wire], fun f hf => ?_⟩
  obtain hf | rfl := hfs f hf
  · exact ⟨hf.ne_nil, .inl hf⟩
  · have hr := redrawFrame_isRedrawFrame hcount
    rw [he.cfg] at hr
    exact ⟨hr.ne_nil hs.legal.1.1, .inr hr⟩

/-- The invariants say nothing of what is presented or of the responses. -/
theorem State.Inv.withPending {s : State} (h : s.Inv) (p : List Code) : (s.withPending p).Inv :=
  ⟨h.legal, h.digitCount, h.position, h.stbHigh, h.clkLow, h.dioLast⟩

theorem State.Inv.respond {s : State} (h : s.Inv) (e : Bool) (d : Byte) : (respond s e d).Inv :=
  ⟨h.legal, h.digitCount, h.position, h.stbHigh, h.clkLow, h.dioLast⟩

/-- Settles O38: a step without an instruction sends nothing, and an instruction sends those frames only. -/
theorem stepAppendsFramesOfTwoKinds : Obligations.StepAppendsFramesOfTwoKinds := by
  intro s t hs h
  obtain ⟨-, rfl⟩ | ⟨code, rest, i, -, -, hexec⟩ | ⟨code, rest, r, -, -, rfl⟩ := step_next_cases h
  · exact ⟨[], by simp, by simp⟩
  · exact exec_appends_frames (s := s.withPending rest) (hs.withPending rest) hexec
  · exact ⟨[], by simp [illegalRequest], by simp⟩

/-- The lines as they stand between requests, with the frames w sent so far (10_state.md R35, R38). -/
def idleLines (w : List Frame) : Lines := { stb := true, clk := false, dio := lastBit w }

theorem driveFrame_idleLines (w : List Frame) (f : Frame) : driveFrame (idleLines w) f = idleLines (w ++ [f]) := by
  rw [driveFrame_eq, idleLines, idleLines, lastBit, lastBit, List.flatten_append, List.flatten_singleton,
    List.getLast?_append]
  cases f.getLast? <;> rfl

theorem linesAfter_idleLines (w fs : List Frame) : linesAfter (idleLines w) fs = idleLines (w ++ fs) := by
  induction fs generalizing w with
  | nil => rw [List.append_nil]; rfl
  | cons f fs ih =>
    rw [List.append_cons, ← ih, ← driveFrame_idleLines]
    rfl

theorem State.Inv.lines_eq {s : State} (h : s.Inv) : s.lines = idleLines s.wire := by
  rw [idleLines, ← h.stbHigh, ← h.clkLow, ← h.dioLast]

theorem positionLegal_congr {s t : State} (hm : t.spinMode = s.spinMode) (hp : t.spinPosition = s.spinPosition) :
    t.PositionLegal ↔ s.PositionLegal := by
  simp only [State.PositionLegal, hm, hp]

theorem nextPosition_toNat_lt {steps : Nat} (h0 : 0 < steps) (h16 : steps ≤ 16) (p : BitVec 4) :
    (nextPosition steps p).toNat < steps := by
  have := Nat.mod_lt (p.toNat + 1) h0
  rw [nextPosition, BitVec.toNat_ofNat, Nat.mod_eq_of_lt (by omega)]
  exact this

/-- RESET and SETSPIN put the position at 0, SPIN wraps it at its mode's step count, and no other instruction
writes it (10_state.md R28, R29). -/
theorem writeDisplay_positionLegal {s : State} (i : Instr) (h : s.PositionLegal) :
    (writeDisplay s i).PositionLegal := by
  cases i with
  | reset => rfl
  | setSpin m =>
    cases m with
    | none => rfl
    | singleDigit => exact (by decide : (0 : BitVec 4).toNat < singleSpinSteps)
    | fullDisplay => exact (by decide : (0 : BitVec 4).toNat < fullSpinSteps)
  | spin =>
    have hm := (spinDigits_onlyDigits s).keepsRegisters.spinMode
    simp only [State.PositionLegal, writeDisplay, positionAfterSpin, hm] at h ⊢
    cases hmode : s.spinMode with
    | none => simpa [hmode] using h
    | singleDigit => exact nextPosition_toNat_lt (by decide) (by decide) _
    | fullDisplay => exact nextPosition_toNat_lt (by decide) (by decide) _
  | setVal v z =>
    have k := (writeValue_onlyDigits v.toNat z s.cfg.n false s).keepsRegisters
    exact (positionLegal_congr k.spinMode k.spinPosition).mpr h
  | setDig | setSeg => exact h
  | enable | disable | setBrt | setCol | tglCol => exact h
  | redraw | getBits | layoutSelect | dataSet | displayCtrl | addr => exact h

theorem exec_inv {i : Instr} {s t : State} (hs : s.Inv) (h : exec i s = .next t) : t.Inv := by
  obtain ⟨⟨fs, rs, he⟩, hlen⟩ := exec_emits h
  have hd := (exec_transmits h).display
  have hlines : t.lines = idleLines t.wire := by rw [he.lines, hs.lines_eq, linesAfter_idleLines, he.wire]
  refine ⟨he.cfg ▸ hs.legal, by rw [hlen, hs.digitCount, he.cfg], ?_, ?_, ?_, ?_⟩
  · exact (positionLegal_congr hd.spinMode hd.spinPosition).mpr (writeDisplay_positionLegal i hs.position)
  all_goals rw [hlines]; rfl

/-- Settles O40: an instruction keeps the invariants, and so do a step without one and an illegal word. -/
theorem stepKeepsInvariant : Obligations.StepKeepsInvariant := by
  intro s t hs h
  obtain ⟨-, rfl⟩ | ⟨code, rest, i, -, -, hexec⟩ | ⟨code, rest, r, -, -, rfl⟩ := step_next_cases h
  · exact hs
  · exact exec_inv (hs.withPending rest) hexec
  · exact (hs.withPending rest).respond ..

end Sys2Proof.Machine
end

section
/-! SUPPORT. The digit writes as the statements name them: what each instruction leaves in the digit buffer is its list of bounded writes (20_memory.md R52, 41_setters.md R144, 42_animation.md R184); and the step that runs a decoded instruction (R62). -/

namespace Sys2Proof.Machine

/-- Settles O7: the fetch takes the code, and its decoding selects the arm of the step. -/
theorem stepRunsDecodedInstruction : Obligations.StepRunsDecodedInstruction := by
  intro s code rest i hpending hdecode
  simp only [step, fetch, hpending, hdecode]

theorem writeAll_cons (w : Nat × Byte) (ws : List (Nat × Byte)) (s : State) :
    writeAll (w :: ws) s = writeAll ws (memWrite s w.1 w.2) := rfl

theorem clearDigits_eq_writeAll (s : State) :
    clearDigits s = writeAll ((List.range s.cfg.n).map fun i => (i, 0x00)) s := by
  rw [writeAll, List.foldl_map, clearDigits]

/-- No write changes the spin table, so the table read at each write is the one before the first. -/
theorem writeSpinFrame_eq_writeAll (p : Nat) (s : State) :
    writeSpinFrame p s = writeAll ((List.range fullSpinDigits).map fun j => (j, spinByte s.cfg p j)) s := rfl

theorem spinDigits_eq_writeAll (s : State) : spinDigits s = writeAll (spinWrites s) s := by
  simp only [spinDigits, spinWrites]
  cases s.spinMode with
  | none => rfl
  | singleDigit => rfl
  | fullDisplay => exact writeSpinFrame_eq_writeAll ..

/-- The decimal digits of v at the n lowest places, from place k up, as one number: zero when the digit at
place k and every digit left of it are zero (41_setters.md R144). -/
def leadingPart (n v k : Nat) : Nat := v % 10 ^ n / 10 ^ k

theorem leadingPart_self (n v : Nat) : leadingPart n v n = 0 :=
  Nat.div_eq_of_lt (Nat.mod_lt _ (by positivity))

/-- The lowest digit of the leading part from place k is the digit at place k. -/
theorem leadingPart_mod {n k : Nat} (v : Nat) (hk : k < n) : leadingPart n v k % 10 = decDigit v k := by
  have hn : 10 ^ n = 10 ^ k * 10 ^ (n - k) := by rw [← pow_add, Nat.add_sub_cancel' hk.le]
  rw [leadingPart, hn, Nat.mod_mul_right_div_self, Nat.mod_mod_of_dvd _ (dvd_pow_self 10 (by omega)), decDigit]

theorem leadingPart_div (n v k : Nat) : leadingPart n v k / 10 = leadingPart n v (k + 1) := by
  rw [leadingPart, Nat.div_div_eq_div_mul, ← pow_succ, leadingPart]

theorem leadingPart_eq_zero_iff {n k : Nat} (v : Nat) (hk : k < n) :
    leadingPart n v k = 0 ↔ decDigit v k = 0 ∧ leadingPart n v (k + 1) = 0 := by
  have hmod := leadingPart_mod v hk
  have hdiv := leadingPart_div n v k
  omega

/-- What SETVAL shows at digit i (R144): one entry of `valueWrites`. -/
def valueDigit (c : Config) (v : Nat) (showLeadingZeros : Bool) (i : Nat) : Byte :=
  if showLeadingZeros = false ∧ i < c.n - 1 ∧ leadingPart c.n v (c.n - 1 - i) = 0 then 0x00
  else font4 c (decDigit v (c.n - 1 - i))

theorem valueWrites_eq_map (c : Config) (v : Nat) (z : Bool) :
    valueWrites c v z = (List.range c.n).map fun i => (i, valueDigit c v z i) := rfl

/-- One pass of SETVAL's loop, where `seen` says whether a digit left of place k is nonzero: it writes what
R144 shows at the digit of place k, and hands on whether a digit from place k up is nonzero. -/
theorem writeValue_succ (v : Nat) (z : Bool) {k : Nat} {seen : Bool} (s : State) (hk : k < s.cfg.n)
    (hseen : seen = false ↔ leadingPart s.cfg.n v (k + 1) = 0) :
    writeValue v z (k + 1) seen s =
      writeValue v z k (seen || decDigit v k != 0)
        (memWrite s (s.cfg.n - (k + 1)) (valueDigit s.cfg v z (s.cfg.n - (k + 1)))) := by
  have hi : s.cfg.n - 1 - k = s.cfg.n - (k + 1) := by omega
  have hplace : s.cfg.n - 1 - (s.cfg.n - (k + 1)) = k := by omega
  have hblank := leadingPart_eq_zero_iff v hk
  simp only [writeValue, valueDigit, hi, hplace, hblank, ← hseen]
  by_cases h : decDigit v k = 0 ∧ z = false ∧ seen = false ∧ s.cfg.n - (k + 1) < s.cfg.n - 1
  · obtain ⟨hd, hz, hs, hlast⟩ := h
    simp [hd, hz, hs, hlast]
  · rw [if_neg h, if_neg (by tauto)]

/-- SETVAL's loop over the last k digits is the list of their writes, from the left. -/
theorem writeValue_eq_writeAll (v : Nat) (z : Bool) (k : Nat) (seen : Bool) (s : State) (hk : k ≤ s.cfg.n)
    (hseen : seen = false ↔ leadingPart s.cfg.n v k = 0) :
    writeValue v z k seen s =
      writeAll ((List.range' (s.cfg.n - k) k).map fun i => (i, valueDigit s.cfg v z i)) s := by
  induction k generalizing seen s with
  | zero => rfl
  | succ k ih =>
    have hnext : s.cfg.n - (k + 1) + 1 = s.cfg.n - k := by omega
    rw [writeValue_succ v z s hk hseen, List.range'_succ, List.map_cons, writeAll_cons, hnext]
    refine ih _ _ (Nat.le_of_succ_le hk) ?_
    rw [memWrite_cfg, leadingPart_eq_zero_iff v hk, ← hseen]
    simp [and_comm]

/-- SETVAL's whole loop: nothing is left of the first digit, so nothing has been seen. -/
theorem writeValue_eq_valueWrites (v : Nat) (z : Bool) (s : State) :
    writeValue v z s.cfg.n false s = writeAll (valueWrites s.cfg v z) s := by
  rw [writeValue_eq_writeAll v z s.cfg.n false s le_rfl (by simp [leadingPart_self]), Nat.sub_self,
    ← List.range_eq_range', valueWrites_eq_map]

/-- The writes of an instruction to the digits are its list of bounded writes. -/
theorem writeDisplay_digits (s : State) (i : Instr) :
    (writeDisplay s i).digits = (writeAll (digitWrites s i) s).digits := by
  cases i with
  | reset => exact congrArg (·.digits) (clearDigits_eq_writeAll s)
  | setVal v z => exact congrArg (·.digits) (writeValue_eq_valueWrites v.toNat z s)
  | spin => exact congrArg (·.digits) (spinDigits_eq_writeAll s)
  | setDig | setSeg => rfl
  | enable | disable | setBrt | setCol | tglCol | setSpin => rfl
  | redraw | getBits | layoutSelect | dataSet | displayCtrl | addr => rfl

/-- Settles O21: an instruction's frames and response leave the digits as its writes made them, and a bounded
write is one register of the buffer or nothing. -/
theorem boundedWrite : Obligations.BoundedWrite := by
  refine ⟨fun i s t h => ⟨?_, fun hlen => ?_⟩, fun s i v hlen => ⟨fun hi => ?_, fun j hj => ?_, ?_, ?_⟩⟩
  · rw [(exec_transmits h).display.digits, writeDisplay_digits]
  · obtain ⟨-, hcount⟩ := exec_emits h
    rw [hcount, hlen]
  · rw [memRead_memWrite, if_pos ⟨rfl, hi, hlen ▸ hi⟩]
  · rw [memRead_memWrite, if_neg fun hw => hj hw.1.symm]
  · exact memWrite_out_of_range s i v
  · exact (memWrite_onlyDigits s i v).keepsRegisters

end Sys2Proof.Machine
end

section
/-! SUPPORT. The inverse of the decoder: a code that decodes to an instruction is its code, and an instruction's request word is the sum of its shifted fields (30_encoding.md R70, R71, R73, R81). -/

namespace Sys2Proof

/-- A word has no bit outside a mask exactly when the mask leaves it as it is. -/
theorem and_not_eq_zero_iff {n : Nat} (b m : BitVec n) : b &&& ~~~ m = 0 ↔ b &&& m = b := by
  simp only [BitVec.eq_of_getLsbD_eq_iff, BitVec.getLsbD_and, BitVec.getLsbD_not, BitVec.ofNat_eq_ofNat,
    BitVec.getLsbD_zero]
  refine forall₂_congr fun i hi => ?_
  cases b.getLsbD i <;> simp [hi]

/-- Check (3) of R75 finds nothing where the operands stay inside the fields the opcode uses. -/
theorem hasUnusedField_eq_false_iff (n : Nat) (f : Bool) (a : Byte) (b : BitVec 32) :
    hasUnusedField n f a b = false ↔
      (f = true → usesF n = true) ∧ (a ≠ 0 → usesA n = true) ∧ b &&& usedB n = b := by
  simp [hasUnusedField, and_assoc, ← and_not_eq_zero_iff]

/-- SETSEG's bitmap is the part of B that SETSEG uses. -/
theorem setWidth_low_byte (b : BitVec 32) : (b.setWidth 8).setWidth 32 = b &&& usedB 0x7 := by
  apply BitVec.eq_of_toNat_eq
  have hmask : (usedB 0x7).toNat = 2 ^ 8 - 1 := by decide
  have hlow : b.toNat % 2 ^ 8 < 2 ^ 32 := by omega
  rw [BitVec.toNat_setWidth, BitVec.toNat_setWidth, BitVec.toNat_and, hmask, Nat.and_two_pow_sub_one_eq_mod,
    Nat.mod_eq_of_lt hlow]

theorem spinModeCode_of_spinModeOf {a : Byte} {m : SpinMode} (h : spinModeOf a = some m) : spinModeCode m = a := by
  apply BitVec.eq_of_toNat_eq
  unfold spinModeOf at h
  split at h <;> cases h <;> simp [spinModeCode, *]

/-- The instruction an opcode and its operands name, after checks (1) to (3) of R75, has their word as its code:
the operands of the instruction are the fields its opcode uses, and the other fields are 0. -/
theorem encode_of_requestOf {n : Nat} {f : Bool} {a : Byte} {b : BitVec 32} {i : Instr}
    (hz : hasUnusedField n f a b = false) (h : requestOf n f a b = .instr i) :
    encode i = .request (requestWord (BitVec.ofNat 4 n) f a b) := by
  obtain ⟨hf, ha, hb⟩ := (hasUnusedField_eq_false_iff n f a b).mp hz
  unfold requestOf at h
  split at h
  case h_8 => -- SETSEG: B is its bitmap, zero-extended
    cases h
    have hf : f = false := by simpa [usesF] using hf
    rw [encode, setWidth_low_byte, hb, hf]
    rfl
  case h_10 => -- SETSPIN: A is its mode's code
    split at h
    · next m hm =>
      cases h
      obtain rfl := spinModeCode_of_spinModeOf hm
      simp_all [usesF, usedB, encode]
    · cases h
  case h_14 => cases h -- a reserved opcode
  all_goals
    cases h
    simp_all [usesF, usesA, usedB, encode]

/-- What an accepted request word has passed: checks (2) and (3) of R75, and its fields name the instruction. -/
theorem decodeRequest_instr {w : ReqWord} {i : Instr} (h : decodeRequest w = .instr i) :
    rsvField w = 0 ∧ hasUnusedField (opField w).toNat (fField w) (aField w) (bField w) = false ∧
      requestOf (opField w).toNat (fField w) (aField w) (bField w) = .instr i := by
  simp only [decodeRequest] at h
  split_ifs at h with hop hrsv hunused
  exact ⟨not_not.mp hrsv, by simpa using hunused, h⟩

theorem encode_of_decodeRequest {w : ReqWord} {i : Instr} (h : decodeRequest w = .instr i) :
    encode i = .request w := by
  obtain ⟨hrsv, hunused, hrequest⟩ := decodeRequest_instr h
  rw [encode_of_requestOf hunused hrequest, BitVec.ofNat_toNat, BitVec.setWidth_eq, requestWord_fields w hrsv]

/-- A wire byte is its kind bits and its operand bits, as R81 cuts it. -/
theorem wireByte_split (b : Byte) :
    b.extractLsb' 2 6 ++ b.extractLsb' 0 2 = b ∧ b.extractLsb' 4 4 ++ b.extractLsb' 0 4 = b ∧
      b.extractLsb' 4 4 ++ BitVec.ofBool (b.getLsbD 3) ++ b.extractLsb' 0 3 = b := by
  revert b
  decide

theorem encode_of_decodeWire {b : Byte} {i : Instr} (h : decodeWire b = .instr i) : encode i = .wire b := by
  obtain ⟨hlayout, haddr, hctrl⟩ := wireByte_split b
  simp only [decodeWire] at h
  split_ifs at h with hkind hbyte hkind hkind <;> cases h
  · rw [hkind] at hlayout
    exact congrArg Code.wire hlayout
  · rw [encode, hbyte]
  · rw [hkind] at hctrl
    exact congrArg Code.wire hctrl
  · rw [hkind] at haddr
    exact congrArg Code.wire haddr

theorem encode_of_decode {code : Code} {i : Instr} (h : decode code = .instr i) : encode i = code := by
  cases code with
  | request w => exact encode_of_decodeRequest h
  | wire b => exact encode_of_decodeWire h

/-- The thirteen requests are the instructions with a request word (R73). -/
theorem encode_eq_request_iff (i : Instr) : (∃ w, encode i = .request w) ↔ i.isRequest = true := by
  cases i <;> simp [encode, Instr.isRequest]

end Sys2Proof

namespace Sys2Proof.Machine

theorem spinModeCode_toNat (m : SpinMode) : (spinModeCode m).toNat = modeNumber m := by
  cases m <;> rfl

/-- A request's code is the word of the fields R71's table gives it, each a number of its field's width. -/
theorem encode_of_requestFields {i : Instr} {op f a b : Nat} (h : requestFields i = some (op, f, a, b)) :
    ∃ (o : BitVec 4) (g : Bool) (x : Byte) (y : BitVec 32), encode i = .request (requestWord o g x y) ∧
      o.toNat = op ∧ g.toNat = f ∧ x.toNat = a ∧ y.toNat = b := by
  cases i with
  | setSeg i m => cases h; exact ⟨_, _, _, _, rfl, rfl, rfl, rfl, BitVec.toNat_setWidth_of_le (by decide)⟩
  | setSpin m => cases h; exact ⟨_, _, _, _, rfl, rfl, rfl, spinModeCode_toNat m, rfl⟩
  | reset | enable | disable | setBrt | setCol | tglCol => cases h; exact ⟨_, _, _, _, rfl, rfl, rfl, rfl, rfl⟩
  | setDig | setVal | spin | redraw | getBits => cases h; exact ⟨_, _, _, _, rfl, rfl, rfl, rfl, rfl⟩
  | layoutSelect | dataSet | displayCtrl | addr => cases h

/-- Settles O1: each code is built from the fields the decoder reads. -/
theorem decodeInvertsEncode : Obligations.DecodeInvertsEncode := decode_encode

/-- Settles O2: the fields of an accepted word and the bits of an accepted byte are all in the instruction. -/
theorem encodeInvertsDecode : Obligations.EncodeInvertsDecode := by
  intro code i h
  have hcode := encode_of_decode h
  exact ⟨hcode, hcode ▸ encode_eq_request_iff i⟩

/-- Settles O3: the word as a number is the sum of its shifted fields, RSV adding 0. -/
theorem requestWordFormula : Obligations.RequestWordFormula := by
  intro i op f a b h
  obtain ⟨o, g, x, y, hcode, rfl, rfl, rfl, rfl⟩ := encode_of_requestFields h
  exact ⟨_, hcode, by rw [toNat_requestWord, Nat.zero_mul, Nat.add_zero]⟩

end Sys2Proof.Machine
end

section
/-! SUPPORT. Which request words are illegal, for which of R75's reasons, and how every request word is answered (30_encoding.md R75, R78, 60_exceptions.md R201, R205). -/

namespace Sys2Proof

/-- R75's checks on the fields of a word, each after the checks before it have passed. -/
def FailsCheck (w : ReqWord) : IllegalReason → Prop
  | .reservedOp => 0xC < (opField w).toNat
  | .rsvNonzero => (opField w).toNat ≤ 0xC ∧ rsvField w ≠ 0
  | .unusedField => (opField w).toNat ≤ 0xC ∧ rsvField w = 0 ∧
      hasUnusedField (opField w).toNat (fField w) (aField w) (bField w) = true
  | .badSpinMode => (opField w).toNat = 0x9 ∧ rsvField w = 0 ∧
      hasUnusedField 0x9 (fField w) (aField w) (bField w) = false ∧ 3 ≤ (aField w).toNat

theorem spinModeOf_eq_none_iff (a : Byte) : spinModeOf a = none ↔ 3 ≤ a.toNat := by
  unfold spinModeOf
  split
  case h_4 => grind -- A is none of 0, 1, 2
  all_goals simp [*]

/-- After the first three checks the one word left to reject is a SETSPIN with no mode in A. -/
theorem requestOf_eq_illegal_iff {n : Nat} (hn : n ≤ 0xC) (f : Bool) (a : Byte) (b : BitVec 32) (r : IllegalReason) :
    requestOf n f a b = .illegal r ↔ r = .badSpinMode ∧ n = 0x9 ∧ 3 ≤ a.toNat := by
  rw [← spinModeOf_eq_none_iff]
  unfold requestOf
  split
  case h_10 => cases spinModeOf a <;> simp [eq_comm] -- SETSPIN
  case h_14 => grind -- a reserved opcode, against hn
  all_goals simp

theorem requestOf_ne_unknownWire (n : Nat) (f : Bool) (a : Byte) (b : BitVec 32) (c : Byte) :
    requestOf n f a b ≠ .unknownWire c := by
  unfold requestOf
  split
  case h_10 => cases spinModeOf a <;> simp -- SETSPIN
  all_goals simp

/-- The decoder gives the first check that a word fails as the reason (R75). -/
theorem decodeRequest_eq_illegal_iff (w : ReqWord) (r : IllegalReason) :
    decodeRequest w = .illegal r ↔ FailsCheck w r := by
  simp only [decodeRequest]
  split_ifs with hop hrsv hunused
  case neg =>
    rw [requestOf_eq_illegal_iff (not_lt.mp hop)]
    cases r <;> grind [FailsCheck]
  all_goals cases r <;> grind [FailsCheck]

/-- A request word is an instruction or illegal, and never an unknown byte. -/
theorem decodeRequest_ne_unknownWire (w : ReqWord) (b : Byte) : decodeRequest w ≠ .unknownWire b := by
  simp only [decodeRequest]
  split_ifs
  · simp
  · simp
  · simp
  · exact requestOf_ne_unknownWire _ _ _ _ b

theorem opField_toNat (w : ReqWord) : (opField w).toNat = w.toNat / 2 ^ 44 := by
  have := w.isLt
  rw [opField, BitVec.extractLsb'_toNat, Nat.shiftRight_eq_div_pow]
  omega

theorem rsvField_toNat (w : ReqWord) : (rsvField w).toNat = w.toNat / 2 ^ 40 % 8 := by
  rw [rsvField, BitVec.extractLsb'_toNat, Nat.shiftRight_eq_div_pow]

theorem aField_toNat (w : ReqWord) : (aField w).toNat = w.toNat / 2 ^ 32 % 256 := by
  rw [aField, BitVec.extractLsb'_toNat, Nat.shiftRight_eq_div_pow]

theorem rsvField_eq_zero_iff (w : ReqWord) : rsvField w = 0 ↔ w.toNat / 2 ^ 40 % 8 = 0 := by
  rw [← rsvField_toNat, ← BitVec.toNat_inj]
  rfl

theorem requestWord_and_requestWord (op mo : BitVec 4) (f mf : Bool) (a ma : Byte) (b mb : BitVec 32) :
    requestWord op f a b &&& requestWord mo mf ma mb =
      requestWord (op &&& mo) (f && mf) (a &&& ma) (b &&& mb) := by
  apply BitVec.eq_of_getLsbD_eq
  intro i _
  simp only [BitVec.getLsbD_and, getLsbD_requestWord]
  split_ifs <;> rfl

theorem requestWord_zero_op_eq_zero_iff (f : Bool) (a : Byte) (b : BitVec 32) :
    requestWord 0 f a b = 0 ↔ f = false ∧ a = 0 ∧ b = 0 := by
  refine ⟨fun h => ?_, ?_⟩
  · have hw : requestWord 0 f a b = requestWord 0 false 0 0 := by rw [h]; decide
    have hf := congrArg fField hw
    have ha := congrArg aField hw
    have hb := congrArg bField hw
    simp only [fField_requestWord, aField_requestWord, bField_requestWord] at hf ha hb
    exact ⟨hf, ha, hb⟩
  · rintro ⟨rfl, rfl, rfl⟩
    decide

end Sys2Proof

namespace Sys2Proof.Machine

/-- R71's "0" fields, as fields: each is the part of F, A or B that the opcode does not use. -/
theorem zeroFields_eq_requestWord :
    ∀ n < 0xD, zeroFields n = requestWord 0 (!usesF n) (if usesA n then 0 else 0xFF) (~~~ usedB n) := by
  decide

/-- Check (3) of R75 on a word: no bit of R71's "0" fields is set. -/
theorem and_zeroFields_eq_zero_iff {w : ReqWord} {n : Nat} (hn : n ≤ 0xC) (hrsv : rsvField w = 0) :
    w &&& zeroFields n = 0 ↔ hasUnusedField n (fField w) (aField w) (bField w) = false := by
  have hop : opField w &&& 0 = 0 := BitVec.and_zero
  have ha : aField w &&& 0xFF#8 = aField w := BitVec.and_allOnes
  conv_lhs => rw [← requestWord_fields w hrsv]
  rw [zeroFields_eq_requestWord n (by omega), requestWord_and_requestWord, hop, requestWord_zero_op_eq_zero_iff,
    hasUnusedField_eq_false_iff, and_not_eq_zero_iff]
  cases usesA n <;> cases usesF n <;> simp [ha]

/-- A step on an illegal word answers it. -/
theorem step_of_illegal {s : State} {code : Code} {rest : List Code} {r : IllegalReason}
    (hpending : s.pending = code :: rest) (hdecode : decode code = .illegal r) :
    step s = .next (illegalRequest r (s.withPending rest)) := by
  simp only [step, fetch, hpending, hdecode]

/-- Settles O4: R75's checks, with the fields read from the word as a number, and the answer. -/
theorem illegalWordsAndTheirAnswer : Obligations.IllegalWordsAndTheirAnswer := by
  refine ⟨fun w => ?_, fun s w rest r hpending hdecode => step_of_illegal hpending hdecode⟩
  simp only [decode, decodeRequest_eq_illegal_iff, FailsCheck, ← opField_toNat, ← aField_toNat, ne_eq,
    ← rsvField_eq_zero_iff]
  refine ⟨trivial, trivial, and_congr_right fun hop => and_congr_right fun hrsv => ?_,
    and_congr_right fun hop => and_congr_right fun hrsv => ?_⟩
  · rw [and_zeroFields_eq_zero_iff hop hrsv, Bool.not_eq_false]
  · rw [and_zeroFields_eq_zero_iff (by decide) hrsv]

/-- The font's entry at the masked operand (30_encoding.md R84). -/
theorem font_getElem?_mod (c : Config) (v : Nat) : c.font[v % 16]? = some (font4 c v) := by
  have hmask : v &&& 0xF = v % 16 := Nat.and_two_pow_sub_one_eq_mod v 4
  simp only [font4, hmask]
  exact Vector.getElem?_eq_getElem _

/-- Settles O27: v and v mod 16 have one masked operand. -/
theorem fontLookupMasks : Obligations.FontLookupMasks := by
  refine fun c v => ⟨font_getElem?_mod c v, Option.some.inj ?_⟩
  rw [← font_getElem?_mod, ← font_getElem?_mod, Nat.mod_mod]

/-- Settles O9: a legal word runs a request, which answers once with ERR = 0, and an illegal word is answered with
ERR = 1. -/
theorem everyRequestAnswersOnce : Obligations.EveryRequestAnswersOnce := by
  intro s w rest hpending
  cases hdecode : decode (.request w) with
  | instr i =>
    have hrequest : i.isRequest = true := (encodeInvertsDecode _ i hdecode).2.mp ⟨w, rfl⟩
    obtain ⟨t, fs, rs, hexec, he, -, hrs⟩ | ⟨hwire, -⟩ := exec_next_or_refused i (s.withPending rest)
    · obtain ⟨d, rfl, hother, hfont⟩ := hrs hrequest
      refine ⟨t, ⟨false, d⟩, ?_, he.responses, he.pending, by simp, fun v hv => ?_, fun hv => ?_⟩
      · rw [stepRunsDecodedInstruction s _ rest i hpending hdecode, hexec]
      · cases hv
        rw [hfont v rfl]
        exact (font_getElem?_mod s.cfg v.toNat).symm
      · exact hother fun v hi => hv v (congrArg Decoded.instr hi)
    · rw [hrequest] at hwire
      cases hwire
  | illegal r =>
    exact ⟨_, ⟨true, 0x00⟩, step_of_illegal hpending hdecode, rfl, rfl, by simp, by simp, by simp⟩
  | unknownWire b => exact absurd hdecode (decodeRequest_ne_unknownWire w b)

end Sys2Proof.Machine
end

section
/-! SUPPORT. The fixed words, lines and bytes of 30_encoding.md (R70, R76, R77, R81), and the steps that run no instruction. -/

namespace Sys2Proof.Machine

/-- Settles O5: the decoder runs on each of the eight codes. -/
theorem specWordsDecode : Obligations.SpecWordsDecode := by
  unfold Obligations.SpecWordsDecode
  decide

/-- Settles O6: the assembler runs on each line, and each pseudo-request is its request by definition. -/
theorem assemblerFollowsSyntax : Obligations.AssemblerFollowsSyntax :=
  ⟨by decide, by decide, by decide, by decide, by decide, fun _ => rfl, fun _ _ => rfl⟩

/-- Settles O8: the fetch finds nothing, or a byte that is no command. -/
theorem stepWithoutInstruction : Obligations.StepWithoutInstruction := by
  refine ⟨fun s hpending => ?_, fun s b rest hpending hdecode => ?_⟩
  · simp only [step, fetch, hpending]
  · simp only [step, fetch, hpending, hdecode]

/-- Settles O34: the builders run at the reference constants, on every power state, brightness and digit. -/
theorem referenceCommandBytes : Obligations.ReferenceCommandBytes := by
  unfold Obligations.ReferenceCommandBytes
  decide

end Sys2Proof.Machine
end

section
/-! SUPPORT. The wire form of a frame: the line assignments of its bits, what a listener hears in them, and the lines they leave (40_wire.md R110, R111, 20_memory.md R56). -/

namespace Sys2Proof.Machine

/-- The line assignments of one bit inside a strobe bracket (40_wire.md R111). -/
def bitEvents (v : Bool) : List LineEvent := [.dio v, .clk true, .clk false]

/-- The eight bits of a byte in the order they are sent, bit 0 first (20_memory.md R56). -/
def byteBits (b : Byte) : List Bool := (List.range 8).map b.getLsbD

theorem byteEvents_eq_flatMap (b : Byte) : byteEvents b = (byteBits b).flatMap bitEvents := by
  rw [byteBits, List.flatMap_map]
  rfl

theorem byteBits_length (b : Byte) : (byteBits b).length = 8 := by
  rw [byteBits, List.length_map, List.length_range]

theorem byteBits_injective : Function.Injective byteBits := by
  intro a b h
  apply BitVec.eq_of_getLsbD_eq
  intro k hk
  exact List.map_inj_left.mp h k (List.mem_range.mpr hk)

theorem frameBits_cons (b : Byte) (f : Frame) : frameBits (b :: f) = byteBits b ++ frameBits f := rfl

theorem frameBits_length (f : Frame) : (frameBits f).length = 8 * f.length := by
  induction f with
  | nil => rfl
  | cons b f ih =>
    rw [frameBits_cons, List.length_append, byteBits_length, ih, List.length_cons]
    omega

/-- The bits of a frame determine it, as every byte has eight of them. -/
theorem frameBits_injective : Function.Injective frameBits := by
  intro f
  induction f with
  | nil =>
    intro g h
    have hlen := congrArg List.length h
    simp only [frameBits_length, List.length_nil] at hlen
    exact (List.eq_nil_of_length_eq_zero (by omega)).symm
  | cons b f ih =>
    intro g h
    cases g with
    | nil =>
      have hlen := congrArg List.length h
      simp [frameBits_length] at hlen
    | cons c g =>
      rw [frameBits_cons, frameBits_cons] at h
      obtain ⟨hbyte, hrest⟩ := List.append_inj h (by rw [byteBits_length, byteBits_length])
      rw [byteBits_injective hbyte, ih hrest]

theorem flatMap_byteEvents (f : Frame) : f.flatMap byteEvents = (frameBits f).flatMap bitEvents := by
  rw [frameBits, List.flatMap_assoc]
  exact List.flatMap_congr fun b _ => byteEvents_eq_flatMap b

/-- A frame on the wire: one strobe bracket around its bits. -/
theorem frameEvents_eq (f : Frame) :
    frameEvents f = .stb false :: ((frameBits f).flatMap bitEvents ++ [.stb true]) := by
  rw [frameEvents, flatMap_byteEvents]

/-- Inside a bracket a listener samples each bit sent, in order. -/
theorem foldl_hear_bits (vs : List Bool) (dio : Bool) (bits : List Bool) (bs : List (List Bool)) :
    (vs.flatMap bitEvents).foldl Listener.hear ⟨⟨false, false, dio⟩, bits, bs⟩ =
      ⟨⟨false, false, vs.getLastD dio⟩, bits ++ vs, bs⟩ := by
  induction vs generalizing dio bits with
  | nil => simp
  | cons v vs ih =>
    have hbit : (bitEvents v).foldl Listener.hear ⟨⟨false, false, dio⟩, bits, bs⟩ =
        ⟨⟨false, false, v⟩, bits ++ [v], bs⟩ := rfl
    rw [List.flatMap_cons, List.foldl_append, hbit, ih, List.getLastD_cons, ← List.append_cons]

/-- From idle lines a listener hears a frame as one bracket, and the lines are idle again. -/
theorem foldl_hear_frame (f : Frame) (dio : Bool) (bs : List (List Bool)) :
    (frameEvents f).foldl Listener.hear ⟨⟨true, false, dio⟩, [], bs⟩ =
      ⟨⟨true, false, (frameBits f).getLastD dio⟩, [], bs ++ [frameBits f]⟩ := by
  have hopen : Listener.hear ⟨⟨true, false, dio⟩, [], bs⟩ (.stb false) = ⟨⟨false, false, dio⟩, [], bs⟩ := rfl
  rw [frameEvents_eq, List.foldl_cons, hopen, List.foldl_append, foldl_hear_bits]
  rfl

theorem brackets_foldl_hear_frames (fs : List Frame) (dio : Bool) (bs : List (List Bool)) :
    ((fs.flatMap frameEvents).foldl Listener.hear ⟨⟨true, false, dio⟩, [], bs⟩).brackets =
      bs ++ fs.map frameBits := by
  induction fs generalizing dio bs with
  | nil => exact (List.append_nil bs).symm
  | cons f fs ih =>
    rw [List.flatMap_cons, List.foldl_append, foldl_hear_frame, ih, List.map_cons, ← List.append_cons]

theorem heardBrackets_frames (dio : Bool) (fs : List Frame) :
    heardBrackets { stb := true, clk := false, dio := dio } (fs.flatMap frameEvents) = fs.map frameBits :=
  brackets_foldl_hear_frames fs dio []

/-- Settles O35: by induction on the frames, each is one bracket of its bits; and what is heard determines the
bits of every frame, which determine its bytes. -/
theorem listenerHearsTheFrames : Obligations.ListenerHearsTheFrames := by
  refine ⟨heardBrackets_frames, fun fs gs h => ?_⟩
  have hbits : fs.map frameBits = gs.map frameBits := by
    rw [← heardBrackets_frames false fs, h, heardBrackets_frames]
  exact frameBits_injective.list_map hbits

/-- Each bit sent is one rising edge, and leaves the clock low. -/
theorem risingEdges_bits_append (vs : List Bool) (es : List LineEvent) :
    risingEdges false (vs.flatMap bitEvents ++ es) = vs.length + risingEdges false es := by
  induction vs with
  | nil => simp
  | cons v vs ih =>
    have hbit : risingEdges false (bitEvents v ++ (vs.flatMap bitEvents ++ es)) =
        1 + (0 + risingEdges false (vs.flatMap bitEvents ++ es)) := rfl
    rw [List.flatMap_cons, List.append_assoc, hbit, ih, List.length_cons]
    omega

theorem ne_stb_of_mem_bits {vs : List Bool} {e : LineEvent} (h : e ∈ vs.flatMap bitEvents) (v : Bool) :
    e ≠ .stb v := by
  rintro rfl
  simp [bitEvents] at h

/-- Settles O36: the bracket's own assignments are no clock edges, and each of the 8n bits between is one. -/
theorem frameMakesEightEdgesPerByte : Obligations.FrameMakesEightEdgesPerByte := by
  refine fun f => ⟨?_, (frameBits f).flatMap bitEvents, frameEvents_eq f, fun e he v => ne_stb_of_mem_bits he v⟩
  calc risingEdges false (frameEvents f)
      = risingEdges false ((frameBits f).flatMap bitEvents ++ [.stb true]) := by rw [frameEvents_eq]; rfl
    _ = 8 * f.length := by rw [risingEdges_bits_append, frameBits_length]; rfl

/-- Where the lines are what the line history leaves from l, they are so after an instruction's frames. -/
theorem Emits.lines_eq_lineTrace {s t : State} {fs : List Frame} {rs : List Response} {l : Lines}
    (h : Emits s t fs rs) (hs : s.lines = (lineTrace s).foldl driveLine l) :
    t.lines = (lineTrace t).foldl driveLine l := by
  rw [h.lines, linesAfter_eq_foldl, hs, lineTrace, lineTrace, h.wire, List.flatMap_append, List.foldl_append]

/-- Settles O37: an instruction drives the frames it appends to W, and a step without one drives nothing. -/
theorem linesFollowTheWireTrace : Obligations.LinesFollowTheWireTrace := by
  refine fun c => ⟨rfl, fun s t hs h => ?_⟩
  obtain ⟨-, rfl⟩ | ⟨code, rest, i, -, -, hexec⟩ | ⟨code, rest, r, -, -, rfl⟩ := step_next_cases h
  · exact hs
  · obtain ⟨⟨fs, rs, he⟩, -⟩ := exec_emits hexec
    exact he.lines_eq_lineTrace hs
  · exact hs

end Sys2Proof.Machine
end

section
/-! SUPPORT. The frames of 40_wire.md's instructions: RESET and REDRAW (R117, R119, R120), the display-control frame of every change of power or brightness (R115), and the wire commands as the block sends them (R112 to R116). -/

namespace Sys2Proof.Machine

theorem Emits.emit {s t : State} {fs : List Frame} {rs : List Response} (h : Emits s t fs rs) (f : Frame) :
    Emits s (emit t f) (fs ++ [f]) rs :=
  ⟨h.cfg, by rw [emit_wire, h.wire, List.append_assoc],
    by rw [emit_lines, h.lines, linesAfter, linesAfter, List.foldl_append]; rfl, h.responses, h.pending⟩

theorem Emits.respond {s t : State} {fs : List Frame} {rs : List Response} (h : Emits s t fs rs) (e : Bool)
    (d : Byte) : Emits s (respond t e d) fs (rs ++ [{ err := e, data := d }]) :=
  ⟨h.cfg, h.wire, h.lines, by rw [respond_responses, h.responses, List.append_assoc], h.pending⟩

theorem Emits.refl (s : State) : Emits s s [] [] := ⟨rfl, (List.append_nil _).symm, rfl, (List.append_nil _).symm, rfl⟩

theorem OnlyDigits.emits {s t : State} (h : OnlyDigits s t) : Emits s t [] [] := by
  rw [h.eq]
  exact ⟨rfl, (List.append_nil _).symm, rfl, (List.append_nil _).symm, rfl⟩

/-- The baseline of R32 writes registers only. -/
theorem baseline_emits (s : State) : Emits s (baseline s) [] [] := by
  obtain ⟨hcfg, hwire, hlines, hresponses, hpending⟩ := (clearDigits_onlyDigits s).emits
  exact ⟨hcfg, hwire, hlines, hresponses, hpending⟩

@[simp] theorem baseline_cfg (s : State) : (baseline s).cfg = s.cfg := (baseline_emits s).cfg

@[simp] theorem baseline_powerOn (s : State) : (baseline s).powerOn = s.powerOn :=
  (clearDigits_onlyDigits s).keepsRegisters.powerOn

/-- RESET in every state (R119): it completes, the display state is the baseline, and the frames (a) to (d) are
sent. -/
theorem exec_reset (s : State) :
    ∃ t, exec .reset s = .next t ∧ KeepsDisplay (baseline s) t ∧
      Emits s t [[layoutCmd s.cfg], [dataSetCmd s.cfg],
        [displayCtrlCmd s.cfg s.powerOn s.cfg.brightnessDefault], redrawFrame (baseline s)] [Response.ok] := by
  have h : ∃ t, exec .reset s = .next t ∧
      Emits s t [[layoutCmd (baseline s).cfg], [dataSetCmd (baseline s).cfg],
        [displayCtrlCmd (baseline s).cfg (baseline s).powerOn s.cfg.brightnessDefault], redrawFrame (baseline s)]
        [Response.ok] :=
    ⟨_, rfl, (((((baseline_emits s).emit _).emit _).emit _).emit _).respond false 0x00⟩
  rw [baseline_cfg, baseline_powerOn] at h
  obtain ⟨t, hexec, he⟩ := h
  exact ⟨t, hexec, (exec_transmits hexec).display, he⟩

/-- The redraw bytes of k cleared digits without a colon, the first of which is digit i. -/
theorem redrawBytes_replicate_zero (c : Config) (i k : Nat) :
    redrawBytes c false i (List.replicate k 0x00) = (List.range' i k).flatMap fun j => [addrCmd c j, 0x00] := by
  induction k generalizing i with
  | zero => rfl
  | succ k ih =>
    have hdata : 0x00 ||| colonOverlay c false i = 0x00 := BitVec.or_zero
    rw [List.replicate_succ, redrawBytes, hdata, ih, List.range'_succ, List.flatMap_cons]
    rfl

theorem redrawFrame_baseline {s : State} (h : s.digits.length = s.cfg.n) :
    redrawFrame (baseline s) = clearedFrame s.cfg := by
  have hdigits : (baseline s).digits = List.replicate s.cfg.n 0x00 := clearDigits_digits s h
  have hcolon : (baseline s).colonEnabled = false := rfl
  rw [redrawFrame, baseline_cfg, hcolon, hdigits, redrawBytes_replicate_zero, clearedFrame, List.range_eq_range']

/-- Settles O13: the registers are those of the baseline, and its redraw frame is N cleared pairs. -/
theorem resetGivesBaselineAndFourFrames : Obligations.ResetGivesBaselineAndFourFrames := by
  intro s h
  obtain ⟨t, hexec, hd, he⟩ := exec_reset s
  have hdigits : t.digits = List.replicate s.cfg.n 0x00 := hd.digits.trans (clearDigits_digits s h)
  rw [redrawFrame_baseline h] at he
  refine ⟨t, hexec, he, by rw [hdigits, List.length_replicate], fun i hi => ?_, hd.colonEnabled, hd.spinMode,
    hd.spinPosition, hd.brightness, hd.powerOn.trans (baseline_powerOn s)⟩
  rw [memRead, hdigits, List.getElem?_replicate_of_lt hi]

theorem redraw_emits (s : State) : Emits s (redraw s) [redrawFrame s] [] := (Emits.refl s).emit _

theorem redraw_keepsDisplay (s : State) : KeepsDisplay s (redraw s) := emit_keepsDisplay s _

/-- REDRAW in every state (R120): it completes, sends the redraw frame and writes no register. -/
theorem exec_redraw (s : State) :
    ∃ t, exec .redraw s = .next t ∧ Emits s t [redrawFrame s] [Response.ok] ∧ KeepsDisplay s t :=
  ⟨_, rfl, (redraw_emits s).respond false 0x00, (redraw_keepsDisplay s).trans (respond_keepsDisplay ..)⟩

/-- Byte 2i + 1 of a redraw frame is digit i with the overlay of R118. -/
theorem redrawFrame_data {s : State} {i : Nat} {d : Byte} (h : memRead s i = some d) :
    (redrawFrame s)[2 * i + 1]? = some (d ||| if s.colonEnabled = true ∧ i < 2 then s.cfg.colonMask else 0x00) := by
  rw [redrawFrame, redrawBytes_data _ _ _ _ _ _ h, Nat.zero_add, colonOverlay]
  simp only [Bool.and_eq_true, decide_eq_true_eq]

/-- Settles O14: the bytes of the redraw frame. -/
theorem redrawSendsEveryDigit : Obligations.RedrawSendsEveryDigit := by
  intro s h
  obtain ⟨t, hexec, he, hd⟩ := exec_redraw s
  obtain ⟨hlen, haddr⟩ := redrawFrame_isRedrawFrame h
  exact ⟨t, _, hexec, he, hd, hlen, fun i hi d hread => ⟨haddr i hi, redrawFrame_data hread⟩⟩

/-- Settles O15: after RESET the redraw frame is that of the baseline, and a REDRAW keeps it. -/
theorem redrawAfterResetSendsClearedPairs : Obligations.RedrawAfterResetSendsClearedPairs := by
  intro s h
  obtain ⟨t, hreset, hst, het⟩ := exec_reset s
  obtain ⟨u, hfirst, heu, htu⟩ := exec_redraw t
  obtain ⟨v, hsecond, hev, -⟩ := exec_redraw u
  have ht : redrawFrame t = clearedFrame s.cfg := by
    rw [hst.redrawFrame (het.cfg.trans (baseline_cfg s).symm), redrawFrame_baseline h]
  have hu : redrawFrame u = clearedFrame s.cfg := (htu.redrawFrame heu.cfg).trans ht
  exact ⟨t, u, v, hreset, hfirst, hsecond, ht ▸ heu.wire, hu ▸ hev.wire⟩

/-- Settles O42: ENABLE, DISABLE and SETBRT send that frame alone, and RESET sends it as frame (c). -/
theorem powerAndBrightnessChangesAreSent : Obligations.PowerAndBrightnessChangesAreSent := by
  intro i s t h hchange
  obtain ⟨-, -, hpower, hbrightness, -⟩ := onlyNamedRequestsWriteARegister i s t h
  have hi : i = .reset ∨ i = .enable ∨ i = .disable ∨ ∃ a, i = .setBrt a := by
    have := hchange.imp hpower hbrightness
    tauto
  obtain rfl | hsetter := hi
  · obtain ⟨u, hexec, hd, he⟩ := exec_reset s
    rw [h] at hexec
    cases hexec
    refine ⟨_, he.wire, ?_⟩
    rw [hd.powerOn, hd.brightness, baseline_powerOn]
    simp [baseline]
  · obtain rfl | rfl | ⟨a, rfl⟩ := hsetter
    all_goals
      cases h
      exact ⟨_, rfl, List.mem_singleton_self _⟩

theorem sendsLayout_iff (c : Config) (code : BitVec 2) :
    sendsLayout c code = true ↔ c.cmdLayoutBase ||| code.setWidth 8 = layoutCmd c := beq_iff_eq

theorem sendsAddr_iff (c : Config) (sl : BitVec 4) :
    sendsAddr c sl = true ↔ ∃ i < c.n, c.cmdAddrBase ||| sl.setWidth 8 = addrCmd c i := by
  simp only [sendsAddr, List.any_eq_true, List.mem_range, beq_iff_eq, addrByte]

/-- Settles O32: each command's guard is the statement's condition on its byte. -/
theorem layoutAndAddressCommandsSendOrRefuse : Obligations.LayoutAndAddressCommandsSendOrRefuse := by
  refine ⟨fun s code h => ?_, fun s code h => ?_, fun s sl i hi h => ?_, fun s sl h => ?_⟩
  · exact ⟨_, if_pos ((sendsLayout_iff _ _).mpr h), (Emits.refl s).emit _, emit_keepsDisplay s _⟩
  · exact if_neg (mt (sendsLayout_iff _ _).mp h)
  · exact ⟨_, if_pos ((sendsAddr_iff _ _).mpr ⟨i, hi, h⟩), redraw_emits s, redraw_keepsDisplay s⟩
  · exact if_neg fun hsends => by
      obtain ⟨i, hi, hbyte⟩ := (sendsAddr_iff _ _).mp hsends
      exact h i hi hbyte

/-- Settles O33: each is the sending of its builder's byte. -/
theorem dataSetAndDisplayControlCommandsSend : Obligations.DataSetAndDisplayControlCommandsSend :=
  ⟨fun s => ⟨_, rfl, (Emits.refl s).emit _, emit_keepsDisplay s _⟩,
    fun s _ _ => ⟨_, rfl, (Emits.refl s).emit _, emit_keepsDisplay s _⟩⟩

end Sys2Proof.Machine
end

section
/-! SUPPORT. The setters of 41_setters.md: what each request leaves in the registers, the frames it sends and its answer, the request words they have (30_encoding.md R70, R71), and the decimal digits SETVAL shows (R143, R144). -/

namespace Sys2Proof.Machine

/-- A request's code is R70's number of the fields R71's table gives it. -/
theorem encode_eq_ofNat {i : Instr} {op f a b n : Nat} (h : requestFields i = some (op, f, a, b))
    (hn : op * 2 ^ 44 + f * 2 ^ 43 + 0 * 2 ^ 40 + a * 2 ^ 32 + b = n) :
    encode i = .request (BitVec.ofNat 48 n) := by
  obtain ⟨w, hcode, hw⟩ := requestWordFormula i op f a b h
  rw [hcode, ← hn, ← hw, BitVec.ofNat_toNat, BitVec.setWidth_eq]

/-! ### Brightness and power -/

theorem updateDisplayState_keepsDisplay (s : State) : KeepsDisplay s (updateDisplayState s) := emit_keepsDisplay s _

/-- A request that changes s to u without sending anything, then sends the display-control frame, and answers. -/
theorem answerOk_updateDisplayState {s u : State} (h : Emits s u [] []) :
    ∃ t, answerOk (updateDisplayState u) = .next t ∧ KeepsDisplay u t ∧
      Emits s t [[displayCtrlCmd u.cfg u.powerOn u.brightness]] [Response.ok] :=
  ⟨_, rfl, (updateDisplayState_keepsDisplay u).trans (respond_keepsDisplay ..), (h.emit _).respond false 0x00⟩

/-- SETBRT's operand masked to three bits is A mod 8 (30_encoding.md R72). -/
theorem brightnessOf_eq_ofNat (a : Byte) : brightnessOf a = BitVec.ofNat 3 (a.toNat % 8) := by
  have hmask : a.toNat &&& 7 = a.toNat % 2 ^ 3 := Nat.and_two_pow_sub_one_eq_mod a.toNat 3
  apply BitVec.eq_of_toNat_eq
  rw [brightnessOf, BitVec.toNat_setWidth, BitVec.toNat_and, BitVec.toNat_ofNat]
  exact congrArg (· % 8) hmask

/-- Settles O16: only the brightness is written before the display-control frame is sent. -/
theorem setBrightnessMasksAndSends : Obligations.SetBrightnessMasksAndSends := by
  intro s a
  have hwrite : Emits s { s with brightness := brightnessOf a } [] [] :=
    ⟨rfl, (List.append_nil _).symm, rfl, (List.append_nil _).symm, rfl⟩
  obtain ⟨t, hexec, hd, he⟩ := answerOk_updateDisplayState hwrite
  refine ⟨encode_eq_ofNat rfl (by omega), t, hexec, brightnessOf_eq_ofNat a ▸ he, ?_, hd.digits, hd.colonEnabled,
    hd.powerOn, hd.spinMode, hd.spinPosition⟩
  rw [hd.brightness, brightnessOf_eq_ofNat, BitVec.toNat_ofNat, Nat.mod_mod]

theorem setPowerFlag_emits (on : Bool) (s : State) : Emits s (setPowerFlag on s) [] [] :=
  ⟨rfl, (List.append_nil _).symm, rfl, (List.append_nil _).symm, rfl⟩

/-- ENABLE and DISABLE are one request with the power state as its operand (R148, R149). -/
theorem exec_enable_or_disable (on : Bool) (s : State) :
    exec (if on then .enable else .disable) s = answerOk (updateDisplayState (setPowerFlag on s)) := by
  cases on <;> rfl

/-- Settles O17: only powerOn is written, and a redraw frame does not depend on it. -/
theorem powerRequestsSetPowerAndSend : Obligations.PowerRequestsSetPowerAndSend := by
  refine ⟨encode_eq_ofNat rfl (by omega), encode_eq_ofNat rfl (by omega), fun s on => ?_⟩
  obtain ⟨t, hexec, hd, he⟩ := answerOk_updateDisplayState (setPowerFlag_emits on s)
  obtain ⟨u, hredraw, hu, -⟩ := exec_redraw t
  have hframe : redrawFrame t = redrawFrame s := hd.redrawFrame he.cfg
  exact ⟨t, u, (exec_enable_or_disable on s).trans hexec, hredraw, hframe ▸ hu, he, hd.powerOn, hd.digits,
    hd.colonEnabled, hd.brightness, hd.spinMode, hd.spinPosition⟩

/-! ### The colon -/

theorem setColonFlag_emits (f : Bool) (s : State) : Emits s (setColonFlag f s) [] [] :=
  ⟨rfl, (List.append_nil _).symm, rfl, (List.append_nil _).symm, rfl⟩

/-- SETCOL's body redraws with the new colon where the colon changes, and sends nothing otherwise (R145). -/
theorem changeColon_emits (f : Bool) (s : State) :
    Emits s (changeColon f s) (if f = s.colonEnabled then [] else [redrawFrame (setColonFlag f s)]) [] := by
  by_cases h : f = s.colonEnabled
  · rw [if_pos h, changeColon, if_neg (by simp [colonChanges, h])]
    exact .refl s
  · rw [if_neg h, changeColon, if_pos (by simp [colonChanges, h])]
    exact (setColonFlag_emits f s).emit _

/-- SETCOL in every state (R145): the colon is f, no other register changes, and it redraws on a change alone. -/
theorem exec_setCol (f : Bool) (s : State) :
    ∃ t, exec (.setCol f) s = .next t ∧ KeepsDisplay (setColonFlag f s) t ∧
      Emits s t (if f = s.colonEnabled then [] else [redrawFrame (setColonFlag f s)]) [Response.ok] :=
  ⟨_, rfl, (changeColon_transmits f s).display.trans (respond_keepsDisplay ..),
    (changeColon_emits f s).respond false 0x00⟩

/-- TGLCOL in every state (R146): the colon flips, no other register changes, and it redraws. -/
theorem exec_tglCol (s : State) :
    ∃ t, exec .tglCol s = .next t ∧ KeepsDisplay (setColonFlag (!s.colonEnabled) s) t ∧
      Emits s t [redrawFrame (setColonFlag (!s.colonEnabled) s)] [Response.ok] := by
  have h := exec_setCol (!s.colonEnabled) s
  rwa [if_neg (Bool.not_ne_self _)] at h

/-- Settles O18: SETCOL writes the colon alone. -/
theorem setColonRedrawsOnChangeOnly : Obligations.SetColonRedrawsOnChangeOnly := by
  intro s f
  obtain ⟨t, hexec, hd, he⟩ := exec_setCol f s
  exact ⟨encode_eq_ofNat rfl (by omega), t, hexec, he, hd.colonEnabled, hd.digits, hd.powerOn, hd.brightness,
    hd.spinMode, hd.spinPosition⟩

/-- Settles O19: the first SETCOL changes the colon to f, so the second finds it at f. -/
theorem setColonTwiceRedrawsOnce : Obligations.SetColonTwiceRedrawsOnce := by
  intro s f hs
  obtain ⟨t, hfirst, hst, het⟩ := exec_setCol f s
  obtain ⟨u, hsecond, htu, heu⟩ := exec_setCol f t
  have hchange : f ≠ s.colonEnabled := by simp [hs]
  have hsame : f = t.colonEnabled := hst.colonEnabled.symm
  rw [if_neg hchange, ← hst.redrawFrame het.cfg] at het
  rw [if_pos hsame] at heu
  exact ⟨t, u, hfirst, hsecond, het.wire, heu.wire.trans (List.append_nil _), htu.colonEnabled⟩

/-- Settles O20: TGLCOL is SETCOL of the opposite state by definition, and the second flips back what the first
flipped. -/
theorem toggleColonFlipsAndRedraws : Obligations.ToggleColonFlipsAndRedraws := by
  refine ⟨encode_eq_ofNat rfl (by omega), fun s => ?_⟩
  obtain ⟨t, hfirst, hst, het⟩ := exec_tglCol s
  obtain ⟨u, hsecond, htu, heu⟩ := exec_tglCol t
  have hflip : t.colonEnabled = !s.colonEnabled := hst.colonEnabled
  have hback : u.colonEnabled = s.colonEnabled := by
    rw [htu.colonEnabled, setColonFlag_colonEnabled, hflip, Bool.not_not]
  have hframes : u.wire.length = s.wire.length + 2 := by
    simp [heu.wire, het.wire]
  exact ⟨t, u, hfirst, hsecond, rfl, het, hflip, hst.digits, hst.powerOn, hst.brightness, hst.spinMode,
    hst.spinPosition, hback, hframes⟩

/-! ### The digits -/

theorem KeepsRegisters.trans_keepsDisplay {s u t : State} (h : KeepsRegisters s u) (k : KeepsDisplay u t) :
    KeepsRegisters s t :=
  ⟨k.digits ▸ h.digitCount, k.colonEnabled.trans h.colonEnabled, k.powerOn.trans h.powerOn,
    k.brightness.trans h.brightness, k.spinMode.trans h.spinMode, k.spinPosition.trans h.spinPosition⟩

/-- A request that changes only digits of s, to u, then redraws if it is asked to, and answers. -/
theorem answerOk_redraw_if {s u : State} (h : OnlyDigits s u) (f : Bool) :
    ∃ t, answerOk (if f then redraw u else u) = .next t ∧ KeepsDisplay u t ∧ KeepsRegisters s t ∧
      Emits s t (if f then [redrawFrame t] else []) [Response.ok] := by
  cases f with
  | false =>
    have hd := respond_keepsDisplay u false 0x00
    exact ⟨_, rfl, hd, h.keepsRegisters.trans_keepsDisplay hd, h.emits.respond false 0x00⟩
  | true =>
    have hd : KeepsDisplay u (respond (redraw u) false 0x00) :=
      (redraw_keepsDisplay u).trans (respond_keepsDisplay ..)
    exact ⟨_, rfl, hd, h.keepsRegisters.trans_keepsDisplay hd, (h.emits.emit _).respond false 0x00⟩

/-- Settles O22: the bounded write of the bitmap. -/
theorem setSegmentsWritesOneDigit : Obligations.SetSegmentsWritesOneDigit := by
  intro s a m hlen
  obtain ⟨hin, hother, hout, -⟩ := boundedWrite.2 s a.toNat m hlen
  obtain ⟨t, hexec, hd, hregs, he⟩ := answerOk_redraw_if (memWrite_onlyDigits s a.toNat m) false
  exact ⟨encode_eq_ofNat rfl (by omega), t, hexec, he, hregs, fun ha => (hd.memRead _).trans (hin ha),
    fun j hj => (hd.memRead j).trans (hother j hj), fun ha => hd.digits.trans (congrArg State.digits (hout ha))⟩

/-- Settles O23: the bounded write of the font entry, and a redraw by F alone. -/
theorem setDigitWritesFontEntry : Obligations.SetDigitWritesFontEntry := by
  intro s a v f hlen
  obtain ⟨hin, hother, hout, -⟩ := boundedWrite.2 s a.toNat (font4 s.cfg v.toNat) hlen
  obtain ⟨t, hexec, hd, hregs, he⟩ :=
    answerOk_redraw_if (memWrite_onlyDigits s a.toNat (font4 s.cfg v.toNat)) f
  refine ⟨t, hexec, he, hregs, fun ha => ?_, fun j hj => (hd.memRead j).trans (hother j hj),
    fun ha => hd.digits.trans (congrArg State.digits (hout ha))⟩
  rw [hd.memRead, hin ha, font_getElem?_mod]

theorem decDigit_lt_ten (v k : Nat) : decDigit v k < 10 := Nat.mod_lt _ (by decide)

/-- The font has an entry for every decimal digit, and the mask of R84 does not change it. -/
theorem font_getElem?_decDigit (c : Config) (v k : Nat) : c.font[decDigit v k]? = some (font4 c (decDigit v k)) := by
  have hlt : decDigit v k < 16 := (decDigit_lt_ten v k).trans (by decide)
  rw [← font_getElem?_mod, Nat.mod_eq_of_lt hlt]

/-- SETVAL's loop leaves in each register what R144 shows there. -/
theorem memRead_writeValue (v : Nat) (z : Bool) {s : State} {i : Nat} (hlen : s.digits.length = s.cfg.n)
    (hi : i < s.cfg.n) : memRead (writeValue v z s.cfg.n false s) i = some (valueDigit s.cfg v z i) := by
  rw [writeValue_eq_valueWrites, valueWrites_eq_map, writeAll, List.foldl_map, memRead_foldl_range,
    if_pos ⟨hi, hi, hlen ▸ hi⟩]

/-- Settles O24: SETVAL writes `valueDigit` at every position, and then redraws. -/
theorem setValueShowsDecimalDigits : Obligations.SetValueShowsDecimalDigits := by
  intro s v f hlen
  obtain ⟨t, hexec, hd, hregs, he⟩ := answerOk_redraw_if (writeValue_onlyDigits v.toNat f s.cfg.n false s) true
  refine ⟨t, hexec, he, hregs, fun i hi => ?_⟩
  rw [hd.memRead, memRead_writeValue v.toNat f hlen hi, valueDigit, leadingPart, apply_ite some,
    ← font_getElem?_decDigit, decDigit]

/-- The digits at the n lowest places are v mod 10^n (R143): one more place adds its digit times 10^n. -/
theorem sum_decDigit (v n : Nat) : ((List.range n).map fun k => decDigit v k * 10 ^ k).sum = v % 10 ^ n := by
  induction n with
  | zero => simp [Nat.mod_one]
  | succ n ih =>
    rw [List.range_succ, List.map_append, List.sum_append, ih, List.map_singleton, List.sum_singleton, decDigit,
      pow_succ, Nat.mod_mul, Nat.mul_comm]

/-- Settles O25: by induction on the places, and a value below 10^n is its own remainder. -/
theorem decimalDigitsRepresentValue : Obligations.DecimalDigitsRepresentValue := by
  intro v n
  exact ⟨sum_decDigit v n, fun h => (sum_decDigit v n).trans (Nat.mod_eq_of_lt h),
    fun k => Nat.le_of_lt_succ (decDigit_lt_ten v k)⟩

/-- Settles O26: the answer is the masked font entry, and it is all that GETBITS adds to the state. -/
theorem getBitsAnswersFontEntry : Obligations.GetBitsAnswersFontEntry := by
  intro s v
  exact ⟨_, _, rfl, font_getElem?_mod s.cfg v.toNat, (Emits.refl s).respond false _, respond_keepsDisplay s false _⟩

end Sys2Proof.Machine
end

section
/-! SUPPORT. The spinner of 42_animation.md: SETSPIN (R181), one SPIN in each mode (R182, R183, R184), and the sequence of frames that SPINs among other requests show (R186). -/

namespace Sys2Proof.Machine

/-- Settles O28: mode and position are written, and the answer is all that is added. -/
theorem setSpinResetsPosition : Obligations.SetSpinResetsPosition := by
  intro s m
  have hwrite : Emits s { s with spinMode := m, spinPosition := 0 } [] [] :=
    ⟨rfl, (List.append_nil _).symm, rfl, (List.append_nil _).symm, rfl⟩
  exact ⟨_, rfl, hwrite.respond false 0x00, rfl, rfl, rfl, rfl, rfl, rfl⟩

/-- SPIN in mode None (R182). -/
theorem exec_spin_of_none {s : State} (h : s.spinMode = .none) : exec .spin s = answerOk s := by
  simp only [exec, execSpin, h]

/-- Settles O29: SPIN in mode None is its answer alone, and None is the mode of RESET's baseline. -/
theorem spinInModeNoneDoesNothing : Obligations.SpinInModeNoneDoesNothing := by
  have hspin : ∀ s : State, s.spinMode = .none →
      ∃ t : State, exec .spin s = .next t ∧ Emits s t [] [Response.ok] ∧ KeepsDisplay s t :=
    fun s h => ⟨_, exec_spin_of_none h, (Emits.refl s).respond false 0x00, respond_keepsDisplay s false 0x00⟩
  refine ⟨encode_eq_ofNat rfl (by omega), fun s => ?_, hspin⟩
  obtain ⟨t, hreset, hd, -⟩ := exec_reset s
  obtain ⟨u, hexec, hrest⟩ := hspin t hd.spinMode
  exact ⟨t, u, hreset, hexec, hrest⟩

/-! ### The position -/

/-- The positions of a mode are those below its step count (10_state.md R29); None has position 0 alone. -/
theorem positionLegal_iff (s : State) : s.PositionLegal ↔ s.spinPosition.toNat < spinSteps s.spinMode := by
  simp only [State.PositionLegal]
  cases s.spinMode with
  | none => rw [← BitVec.toNat_inj]; exact Nat.lt_one_iff.symm
  | singleDigit => rfl
  | fullDisplay => rfl

/-- A step count of at most 16 fits the 4-bit register, so the advance is exact. -/
theorem nextPosition_toNat {steps : Nat} (h0 : 0 < steps) (h16 : steps ≤ 16) (p : BitVec 4) :
    (nextPosition steps p).toNat = (p.toNat + 1) % steps := by
  have := Nat.mod_lt (p.toNat + 1) h0
  rw [nextPosition, BitVec.toNat_ofNat, Nat.mod_eq_of_lt (by omega)]

/-- SPIN advances the position by one, modulo the step count of the mode. -/
theorem positionAfterSpin_toNat {s : State} (h : s.PositionLegal) :
    (positionAfterSpin s).toNat = (s.spinPosition.toNat + 1) % spinSteps s.spinMode := by
  rw [positionLegal_iff] at h
  unfold positionAfterSpin
  cases hm : s.spinMode with
  | none =>
    rw [hm] at h
    exact (Nat.lt_one_iff.mp h).trans (Nat.mod_one _).symm
  | singleDigit => exact nextPosition_toNat (by decide) (by decide) _
  | fullDisplay => exact nextPosition_toNat (by decide) (by decide) _

/-! ### One SPIN -/

/-- SPIN in a mode other than None writes digits and position, and then redraws. -/
theorem exec_spin_of_ne_none {s : State} (h : s.spinMode ≠ .none) :
    exec .spin s = answerOk (redraw { spinDigits s with spinPosition := positionAfterSpin s }) := by
  simp only [exec, execSpin, spinDigits, positionAfterSpin]
  cases hm : s.spinMode with
  | none => exact absurd hm h
  | singleDigit => rfl
  | fullDisplay => rfl

/-- What R183 and R184 share: SPIN leaves the mode's bitmaps in the digits, advances the position, sends one
redraw of the new state and writes no other register. -/
theorem exec_spin_spinning {s : State} (hs : s.PositionLegal) (hm : s.spinMode ≠ .none) :
    ∃ t : State, exec .spin s = .next t ∧ Emits s t [redrawFrame t] [Response.ok] ∧
      (∀ j, memRead t j = memRead (spinDigits s) j) ∧ t.digits.length = s.digits.length ∧
      t.spinPosition.toNat = (s.spinPosition.toNat + 1) % spinSteps s.spinMode ∧
      t.spinMode = s.spinMode ∧ t.colonEnabled = s.colonEnabled ∧ t.powerOn = s.powerOn ∧
      t.brightness = s.brightness := by
  have hdigits := spinDigits_onlyDigits s
  obtain ⟨hlen, hcolon, hpower, hbrightness, hmode, -⟩ := hdigits.keepsRegisters
  obtain ⟨hcfg, hwire, hlines, hresponses, hpending⟩ := hdigits.emits
  have hwrite : Emits s { spinDigits s with spinPosition := positionAfterSpin s } [] [] :=
    ⟨hcfg, hwire, hlines, hresponses, hpending⟩
  exact ⟨_, exec_spin_of_ne_none hm, (hwrite.emit _).respond false 0x00, fun _ => rfl, hlen,
    positionAfterSpin_toNat hs, hmode, hcolon, hpower, hbrightness⟩

theorem spinBit_eq_ofNat (p : BitVec 4) : spinBit p = BitVec.ofNat 8 (2 ^ p.toNat) := by
  apply BitVec.eq_of_toNat_eq
  simp [spinBit, Nat.shiftLeft_eq]

/-- Settles O30: the one write is the bounded write of the position's bit to digit 0. -/
theorem spinSingleRotatesOneSegment : Obligations.SpinSingleRotatesOneSegment := by
  intro s hs hm
  obtain ⟨t, hexec, he, hread, hlen, hpos, hregs⟩ := exec_spin_spinning hs.position (by simp [hm])
  have hwrite : spinDigits s = memWrite s 0 (spinBit s.spinPosition) := by simp only [spinDigits, hm]
  obtain ⟨hin, hother, -, -⟩ := boundedWrite.2 s 0 (spinBit s.spinPosition) hs.digitCount
  rw [hm] at hpos
  simp only [hwrite] at hread
  refine ⟨t, hexec, he, ?_, fun j hj => (hread j).trans (hother j hj), hlen, hpos, hregs⟩
  rw [hread, hin hs.legal.1.1, spinBit_eq_ofNat]

/-- At a position below 12, byte j < 4 of its frame stands in the table (30_encoding.md R86). -/
theorem spinTable_getElem? (c : Config) {p j : Nat} (hp : p < fullSpinSteps) (hj : j < fullSpinDigits) :
    c.spinTable[4 * p + j]? = some (spinByte c p j) := by
  have hindex : 4 * p + j < 48 := by rw [fullSpinSteps] at hp; rw [fullSpinDigits] at hj; omega
  rw [spinByte, dif_pos hindex, Vector.getElem?_eq_getElem]

/-- Settles O31: of the four writes those below N are kept, and each is an entry of the table. -/
theorem spinFullShowsTableFrame : Obligations.SpinFullShowsTableFrame := by
  intro s hs hm
  obtain ⟨t, hexec, he, hread, hlen, hpos, hregs⟩ := exec_spin_spinning hs.position (by simp [hm])
  have hwrite : spinDigits s = writeSpinFrame s.spinPosition.toNat s := by simp only [spinDigits, hm]
  have hp := (positionLegal_iff s).mp hs.position
  rw [hs.digitCount] at hlen
  rw [hm] at hpos hp
  refine ⟨t, hexec, he, by rw [redrawFrame_length, hlen], fun j hj => ?_, hlen, hpos, hregs⟩
  have hj4 : j < fullSpinDigits := hj.trans_le hs.legal.1.2
  rw [hread, hwrite, memRead_writeSpinFrame, if_pos ⟨hj4, hj, hs.digitCount.symm ▸ hj⟩, spinTable_getElem? _ hp hj4]

/-! ### SPINs among other requests -/

/-- The requests of R186 between SETSPIN and the SPIN it speaks of: all but SETSPIN and RESET. -/
def KeepsSpinning (i : Instr) : Prop := i.isRequest = true ∧ i ≠ .reset ∧ ∀ m, i ≠ .setSpin m

/-- Such a request completes, keeps the invariants, the configuration and the mode, and advances the position if
it is a SPIN. -/
theorem exec_keepsSpinning {i : Instr} {s : State} (hi : KeepsSpinning i) (hs : s.Inv) :
    ∃ t, exec i s = .next t ∧ t.Inv ∧ t.cfg = s.cfg ∧ t.spinMode = s.spinMode ∧
      t.spinPosition.toNat = (s.spinPosition.toNat + [i].count .spin) % spinSteps s.spinMode := by
  obtain ⟨hrequest, hreset, hsetSpin⟩ := hi
  obtain ⟨t, -, -, hexec, -⟩ | ⟨hwire, -⟩ := exec_next_or_refused i s
  case inr => simp [hrequest] at hwire
  obtain ⟨hcfg, -, -, -, hmode, hpos, -⟩ := onlyNamedRequestsWriteARegister i s t hexec
  refine ⟨t, hexec, exec_inv hs hexec, hcfg, ?_, ?_⟩
  · by_contra hne
    simpa [hreset, hsetSpin] using hmode hne
  · by_cases hspin : i = .spin
    · subst hspin
      rw [(exec_transmits hexec).display.spinPosition]
      exact positionAfterSpin_toNat hs.position
    · have hsame : t.spinPosition = s.spinPosition := by
        by_contra hne
        simpa [hreset, hsetSpin, hspin] using hpos hne
      have hcount : [i].count .spin = 0 := by simp [hspin]
      rw [hsame, hcount, Nat.add_zero, Nat.mod_eq_of_lt ((positionLegal_iff s).mp hs.position)]

/-- The counting half of R186, from any position. -/
theorem execAll_keepsSpinning {is : List Instr} (his : ∀ i ∈ is, KeepsSpinning i) {s : State} (hs : s.Inv) :
    ∃ t, execAll is s = .next t ∧ t.Inv ∧ t.cfg = s.cfg ∧ t.spinMode = s.spinMode ∧
      t.spinPosition.toNat = (s.spinPosition.toNat + is.count .spin) % spinSteps s.spinMode := by
  induction is generalizing s with
  | nil =>
    exact ⟨s, rfl, hs, rfl, rfl, (Nat.mod_eq_of_lt ((positionLegal_iff s).mp hs.position)).symm⟩
  | cons i is ih =>
    obtain ⟨hi, his⟩ := List.forall_mem_cons.mp his
    obtain ⟨t, hexec, ht, htcfg, htmode, htpos⟩ := exec_keepsSpinning hi hs
    obtain ⟨u, hrun, hu, hucfg, humode, hupos⟩ := ih his ht
    refine ⟨u, by simp only [execAll, hexec, hrun], hu, hucfg.trans htcfg, humode.trans htmode, ?_⟩
    have hcount : (i :: is).count .spin = [i].count .spin + is.count .spin := List.count_append (l₁ := [i])
    rw [hupos, htmode, htpos, Nat.mod_add_mod, hcount, Nat.add_assoc]

/-- Settles O45: SETSPIN starts the count at 0, the requests count the SPINs, and the last SPIN shows the frame of
the position it finds. -/
theorem spinnerSequencingLaw : Obligations.SpinnerSequencingLaw := by
  intro s m is hs hm his
  obtain ⟨t0, hset, -, hmode0, hpos0, -⟩ := setSpinResetsPosition s m
  have hcfg0 : t0.cfg = s.cfg := (onlyNamedRequestsWriteARegister _ _ _ hset).1
  obtain ⟨t, hrun, ht, hcfg, hmode, hpos⟩ := execAll_keepsSpinning his (exec_inv hs hset)
  have hstart : t0.spinPosition.toNat = 0 := by rw [hpos0]; rfl
  rw [hmode0] at hmode hpos
  rw [hstart, Nat.zero_add] at hpos
  rw [hcfg0] at hcfg
  cases m with
  | none => exact absurd rfl hm
  | singleDigit =>
    obtain ⟨u, hspin, -, hread, -⟩ := spinSingleRotatesOneSegment t ht hmode
    rw [hpos] at hread
    exact ⟨t0, t, u, hset, hrun, hspin, hmode, hpos, fun _ => hread, by simp⟩
  | fullDisplay =>
    obtain ⟨u, hspin, -, -, hread, -⟩ := spinFullShowsTableFrame t ht hmode
    rw [hpos, hcfg] at hread
    exact ⟨t0, t, u, hset, hrun, hspin, hmode, hpos, by simp, fun _ => hread⟩

end Sys2Proof.Machine
end

section
/-! SUPPORT. Construction's outcomes by the parameter set (00_scope.md R7, 60_exceptions.md R200), and powerOn as an input of the display-control frames alone (60_exceptions.md R214, 70_reset_and_hazards.md R246). -/

namespace Sys2Proof.Machine

/-! ### Construction -/

theorem construct_of_illegal_digitCount {c : Config} (h : ¬ c.DigitCountLegal) :
    construct c = .fault (.configError c.n) := if_pos h

theorem construct_of_legal_digitCount {c : Config} (h : c.DigitCountLegal) :
    construct c = if c.ParametersLegal then .next (State.powerUp c) else .refused .illegalParameters := by
  rw [construct, if_neg (not_not.mpr h), ite_not]

/-- Settles O11: the digit count is checked first, and a legal one leaves the power-on state or a refusal. -/
theorem constructionChecksDigitCount : Obligations.ConstructionChecksDigitCount := by
  intro c
  refine ⟨fun hn => construct_of_illegal_digitCount hn, fun hn k => ?_, fun hc => ?_⟩
  · rw [construct_of_legal_digitCount hn]
    split
    · exact nofun
    · exact nofun
  · rw [construct_of_legal_digitCount hc.1, if_pos hc.2]

/-! ### Writes and requests that do not read powerOn -/

theorem clearDigits_setPowerFlag (on : Bool) (s : State) :
    clearDigits (setPowerFlag on s) = setPowerFlag on (clearDigits s) :=
  List.foldl_hom (setPowerFlag on) fun _ _ => rfl

theorem writeSpinFrame_setPowerFlag (p : Nat) (on : Bool) (s : State) :
    writeSpinFrame p (setPowerFlag on s) = setPowerFlag on (writeSpinFrame p s) :=
  List.foldl_hom (setPowerFlag on) fun _ _ => rfl

theorem writeValue_setPowerFlag (v : Nat) (z : Bool) (k : Nat) (seen on : Bool) (s : State) :
    writeValue v z k seen (setPowerFlag on s) = setPowerFlag on (writeValue v z k seen s) := by
  induction k generalizing seen s with
  | zero => rfl
  | succ k ih =>
    have hwrite : ∀ i b, memWrite (setPowerFlag on s) i b = setPowerFlag on (memWrite s i b) := fun _ _ => rfl
    simp only [writeValue, setPowerFlag_cfg, hwrite, ih, apply_ite (setPowerFlag on)]

theorem changeColon_setPowerFlag (f on : Bool) (s : State) :
    changeColon f (setPowerFlag on s) = setPowerFlag on (changeColon f s) :=
  (apply_ite (setPowerFlag on) (colonChanges f s = true) (redraw (setColonFlag f s)) s).symm

theorem baseline_setPowerFlag (on : Bool) (s : State) :
    baseline (setPowerFlag on s) = setPowerFlag on (baseline s) := by
  rw [baseline, clearDigits_setPowerFlag]
  rfl

theorem spinDigits_setPowerFlag (on : Bool) (s : State) :
    spinDigits (setPowerFlag on s) = setPowerFlag on (spinDigits s) := by
  simp only [spinDigits, setPowerFlag_spinMode]
  cases s.spinMode with
  | none => rfl
  | singleDigit => rfl
  | fullDisplay => exact writeSpinFrame_setPowerFlag _ on s

/-- The requests that send the display-control frame (40_wire.md R115, R119). -/
def SendsDisplayCtrl (i : Instr) : Prop := i = .reset ∨ i = .enable ∨ i = .disable ∨ ∃ a, i = .setBrt a

/-- Every other request sends the same frames and leaves the same state, but for powerOn, whatever powerOn is. -/
theorem exec_setPowerFlag {i : Instr} (hr : i.isRequest = true) (hi : ¬ SendsDisplayCtrl i) {s t : State}
    (h : exec i s = .next t) (on : Bool) : exec i (setPowerFlag on s) = .next (setPowerFlag on t) := by
  cases i with
  | reset | enable | disable | setBrt => simp [SendsDisplayCtrl] at hi
  | layoutSelect | dataSet | displayCtrl | addr => cases hr
  | setCol f =>
    cases h
    simp only [exec, execSetCol, changeColon_setPowerFlag]
    rfl
  | tglCol =>
    cases h
    simp only [exec, execTglCol, setPowerFlag_colonEnabled, changeColon_setPowerFlag]
    rfl
  | setDig a v f => cases h; cases f <;> rfl
  | setVal v z =>
    cases h
    simp only [exec, execSetVal, setPowerFlag_cfg, writeValue_setPowerFlag]
    rfl
  | spin =>
    by_cases hm : s.spinMode = .none
    · rw [exec_spin_of_none hm] at h
      rw [exec_spin_of_none (s := setPowerFlag on s) hm]
      cases h
      rfl
    · rw [exec_spin_of_ne_none hm] at h
      rw [exec_spin_of_ne_none (s := setPowerFlag on s) hm, spinDigits_setPowerFlag]
      cases h
      rfl
  | setSeg | setSpin | redraw | getBits => cases h; rfl

/-! ### Two runs that differ in powerOn -/

/-- Two frames of a block with configuration c that are equal, or are display-control frames of one brightness. -/
def SameButOnBit (c : Config) (f g : Frame) : Prop :=
  f = g ∨ ∃ p q b, f = [displayCtrlCmd c p b] ∧ g = [displayCtrlCmd c q b]

theorem sameButOnBit_displayCtrl (c : Config) (p q : Bool) (b : BitVec 3) :
    SameButOnBit c [displayCtrlCmd c p b] [displayCtrlCmd c q b] := .inr ⟨p, q, b, rfl, rfl⟩

theorem forall₂_sameButOnBit_refl (c : Config) (fs : List Frame) : List.Forall₂ (SameButOnBit c) fs fs :=
  List.forall₂_same.mpr fun _ _ => .inl rfl

/-- t and u are s after the same request with two values of powerOn: they have the same digits, registers but for
powerOn, and responses, and the frames sent since s are pairwise the same but for the on bit. -/
structure PowerTwins (s t u : State) : Prop where
  digits : t.digits = u.digits
  colonEnabled : t.colonEnabled = u.colonEnabled
  brightness : t.brightness = u.brightness
  spinMode : t.spinMode = u.spinMode
  spinPosition : t.spinPosition = u.spinPosition
  responses : t.responses = u.responses
  frames : ∃ fs gs, t.wire = s.wire ++ fs ∧ u.wire = s.wire ++ gs ∧ List.Forall₂ (SameButOnBit s.cfg) fs gs

/-- RESET reads powerOn for its frame (c) alone (R119). -/
theorem exec_reset_powerTwins (s : State) (on : Bool) :
    ∃ t u, exec .reset s = .next t ∧ exec .reset (setPowerFlag on s) = .next u ∧ PowerTwins s t u := by
  obtain ⟨t, hst, ht, het⟩ := exec_reset s
  obtain ⟨u, hsu, hu, heu⟩ := exec_reset (setPowerFlag on s)
  rw [baseline_setPowerFlag] at hu heu
  refine ⟨t, u, hst, hsu, ht.digits.trans hu.digits.symm, ht.colonEnabled.trans hu.colonEnabled.symm,
    ht.brightness.trans hu.brightness.symm, ht.spinMode.trans hu.spinMode.symm,
    ht.spinPosition.trans hu.spinPosition.symm, het.responses.trans heu.responses.symm, _, _, het.wire, heu.wire, ?_⟩
  exact .cons (.inl rfl) (.cons (.inl rfl) (.cons (sameButOnBit_displayCtrl ..) (forall₂_sameButOnBit_refl ..)))

theorem exec_powerTwins {i : Instr} (hr : i.isRequest = true) (s : State) (on : Bool) :
    ∃ t u, exec i s = .next t ∧ exec i (setPowerFlag on s) = .next u ∧ PowerTwins s t u := by
  by_cases hi : SendsDisplayCtrl i
  · obtain rfl | rfl | rfl | ⟨a, rfl⟩ := hi
    · exact exec_reset_powerTwins s on
    all_goals
      exact ⟨_, _, rfl, rfl, rfl, rfl, rfl, rfl, rfl, rfl, _, _, rfl, rfl, .cons (sameButOnBit_displayCtrl ..) .nil⟩
  · obtain ⟨t, fs, rs, h, he, -⟩ | ⟨hw, -⟩ := exec_next_or_refused i s
    · exact ⟨t, _, h, exec_setPowerFlag hr hi h on, rfl, rfl, rfl, rfl, rfl, rfl, fs, fs, he.wire, he.wire,
        forall₂_sameButOnBit_refl ..⟩
    · rw [hr] at hw
      cases hw

/-- Settles O43: the two runs of a request are twins, and frames of equal lists of twins stand at equal places. -/
theorem powerChangesOnlyTheOnBit : Obligations.PowerChangesOnlyTheOnBit := by
  intro i s on hr
  obtain ⟨t, u, ht, hu, hd, hc, hb, hm, hp, hrs, fs, gs, hfs, hgs, hfg⟩ := exec_powerTwins hr s on
  refine ⟨t, u, fs, gs, ht, hu, hfs, hgs, hfg.length_eq, hd, hc, hb, hm, hp, hrs, fun k f g hf hg => ?_⟩
  obtain ⟨hkf, rfl⟩ := List.getElem?_eq_some_iff.mp hf
  obtain ⟨hkg, rfl⟩ := List.getElem?_eq_some_iff.mp hg
  exact hfg.get hkf hkg

end Sys2Proof.Machine
end
